-- ==== Sys2Proof/Word.lean ====
section
/-! DEFINITION. The word types of the spec: u32, u8 and the three-subkey set (00_scope.md R6, R9). -/

namespace Sys2Proof

/-- A 32-bit word, the spec's u32 (R9): registers, blocks, keys, command words. -/
abbrev Word := BitVec 32

/-- A byte, the spec's u8 (R9). -/
abbrev Byte := BitVec 8

/-- The ordered triple of subkeys, the spec's `[u32; 3]` and SubkeySet (R6, R101). -/
structure SubkeySet where
  k0 : Word
  k1 : Word
  k2 : Word
  deriving DecidableEq, Repr

end Sys2Proof
end

