-- ==== Sys2Proof/Config.lean ====
section
/-! DEFINITION. The parameters the spec leaves OPEN (00_scope.md R7, 92_eei_decisions.md "Open parameters").
Each is a constant without a body: nothing can be proved of its value. -/

namespace Sys2Proof

/-- Which 64-byte slot of the host's address space holds the register window. -/
opaque Config.windowSlot : Nat

/-- BASE_ADDR: the host byte address of word 0 of the window, a multiple of 64 (R50). -/
def Config.baseAddr : Nat := 64 * Config.windowSlot

/-- LAT(op): cycles from acceptance to completion (R301). No rule of the untimed model reads it. -/
opaque Config.lat : BitVec 4 → Nat

/-- The two kinds of reset input R290 allows. -/
inductive Config.ResetKind where
  | synchronous
  | asynchronous
  deriving DecidableEq, Repr, Inhabited

/-- RESET_KIND: not observable through the interface (R290), so no rule of the model reads it. -/
opaque Config.resetKind : Config.ResetKind

end Sys2Proof
end

