-- ==== Sys2Proof/Syntax.lean ====
section
/-! DEFINITION. The commands of SBC-CMD v1: one constructor per row of the opcode table, that is per
legal command word (30_encoding.md R82, R94). A row fixes all 32 bits, so no constructor has operands. -/

namespace Sys2Proof

/-- The 23 legal commands (R94). `subSk1` is `cmd SUB, sk1`: the subkey selected is part of the row. -/
inductive Instr where
  | nop
  | derive
  | encrypt
  | decrypt
  | subSk0
  | subSk1
  | subSk2
  | subinvSk0
  | subinvSk1
  | subinvSk2
  | permSk0
  | permSk1
  | permSk2
  | perminvSk0
  | perminvSk1
  | perminvSk2
  | roundSk0
  | roundSk1
  | roundSk2
  | roundinvSk0
  | roundinvSk1
  | roundinvSk2
  | zeroize
  deriving DecidableEq, Repr

end Sys2Proof
end

