-- ==== Sys2Proof/WellFormed.lean ====
section
/-! DEFINITION. Which field values make a legal command (30_encoding.md R80, R81, R83). A term of Instr has
no operand and is always well formed; what can be ill formed is a triple of fields, so the checks are on those. -/

namespace Sys2Proof

/-- The fields of a command word as R80 cuts it: OP = bits 3:0, SEL = bits 5:4, RSV = bits 31:6. -/
structure CmdFields where
  op  : BitVec 4
  sel : BitVec 2
  rsv : BitVec 26
  deriving DecidableEq, Repr

/-- The opcode is not one of the reserved ones 0xA to 0xE (R82, R90). -/
abbrev CmdFields.OpAssigned (f : CmdFields) : Prop :=
  f.op.toNat < 10 ∨ f.op.toNat = 15

/-- The reserved field is zero (R80). -/
abbrev CmdFields.RsvZero (f : CmdFields) : Prop :=
  f.rsv.toNat = 0

/-- A stage command (opcodes 4 to 9) selects subkey 0, 1 or 2; any other has SEL = 0 (R81, R83). -/
abbrev CmdFields.SelAllowed (f : CmdFields) : Prop :=
  if 4 ≤ f.op.toNat ∧ f.op.toNat ≤ 9 then f.sel.toNat < 3 else f.sel.toNat = 0

/-- The fields are those of one of the 23 legal words (R83, R94). -/
abbrev CmdFields.WellFormed (f : CmdFields) : Prop :=
  f.OpAssigned ∧ f.RsvZero ∧ f.SelAllowed

end Sys2Proof
end

