-- ==== Sys2Proof/Decode.lean ====
section
/-! DEFINITION. Decoding and encoding of command words (30_encoding.md R80-R83, R88, R90, R94). -/

namespace Sys2Proof

/-- The causes of the core's errors (60_exceptions.md R260). Codes 5 to 7 are never produced, so they have
no constructor here. -/
inductive ErrCause where
  | illegalOpcode
  | reservedField
  | cmdOverrun
  | writeWhileBusy
  deriving DecidableEq, Repr

/-- The code STATUS.ERRCODE holds for a cause (R260). -/
def causeCode : ErrCause → BitVec 3
  | .illegalOpcode => 1
  | .reservedField => 2
  | .cmdOverrun => 3
  | .writeWhileBusy => 4

/-- What decoding a word gives (R83). -/
inductive Decoded where
  | legal (op : BitVec 4) (sel : BitVec 2)
  | illegal (cause : ErrCause)
  deriving DecidableEq, Repr

/-- The three fields of a command word (R80). -/
def fieldsOf (w : Word) : CmdFields where
  op := w.extractLsb' 0 4
  sel := w.extractLsb' 4 2
  rsv := w.extractLsb' 6 26

/-- Opcodes 0xA to 0xE are reserved (R82). -/
def opReserved (op : BitVec 4) : Bool := 0xA ≤ op.toNat && op.toNat ≤ 0xE

/-- Opcodes 0x4 to 0x9 use SEL (R81, R82). -/
def opUsesSel (op : BitVec 4) : Bool := 0x4 ≤ op.toNat && op.toNat ≤ 0x9

/-- `decode`, total on every word; the first case that applies is taken (R83). -/
def decode (w : Word) : Decoded :=
  let f := fieldsOf w
  if opReserved f.op then .illegal .illegalOpcode
  else if f.rsv ≠ 0 then .illegal .reservedField
  else if opUsesSel f.op && f.sel == 3 then .illegal .reservedField
  else if !opUsesSel f.op && f.sel != 0 then .illegal .reservedField
  else .legal f.op f.sel

/-- The command a pair (op, sel) stands for: the dispatch of R88, on the 23 legal pairs and on nothing else
(a PENDING value outside them has no meaning, R88, R267). -/
def pairInstr (op : BitVec 4) (sel : BitVec 2) : Option Instr :=
  match op.toNat, sel.toNat with
  | 0x0, 0 => some .nop
  | 0x1, 0 => some .derive
  | 0x2, 0 => some .encrypt
  | 0x3, 0 => some .decrypt
  | 0x4, 0 => some .subSk0
  | 0x4, 1 => some .subSk1
  | 0x4, 2 => some .subSk2
  | 0x5, 0 => some .subinvSk0
  | 0x5, 1 => some .subinvSk1
  | 0x5, 2 => some .subinvSk2
  | 0x6, 0 => some .permSk0
  | 0x6, 1 => some .permSk1
  | 0x6, 2 => some .permSk2
  | 0x7, 0 => some .perminvSk0
  | 0x7, 1 => some .perminvSk1
  | 0x7, 2 => some .perminvSk2
  | 0x8, 0 => some .roundSk0
  | 0x8, 1 => some .roundSk1
  | 0x8, 2 => some .roundSk2
  | 0x9, 0 => some .roundinvSk0
  | 0x9, 1 => some .roundinvSk1
  | 0x9, 2 => some .roundinvSk2
  | 0xF, 0 => some .zeroize
  | _, _ => none

/-- The command a word stands for, if it is one of the 23 legal words. -/
def decodeInstr (w : Word) : Option Instr :=
  match decode w with
  | .legal op sel => pairInstr op sel
  | .illegal _ => none

/-- The opcode of a command (R82). -/
def instrOp : Instr → BitVec 4
  | .nop => 0x0
  | .derive => 0x1
  | .encrypt => 0x2
  | .decrypt => 0x3
  | .subSk0 | .subSk1 | .subSk2 => 0x4
  | .subinvSk0 | .subinvSk1 | .subinvSk2 => 0x5
  | .permSk0 | .permSk1 | .permSk2 => 0x6
  | .perminvSk0 | .perminvSk1 | .perminvSk2 => 0x7
  | .roundSk0 | .roundSk1 | .roundSk2 => 0x8
  | .roundinvSk0 | .roundinvSk1 | .roundinvSk2 => 0x9
  | .zeroize => 0xF

/-- The SEL field of a command: the number of the subkey it selects, else 0 (R81). -/
def instrSel : Instr → BitVec 2
  | .subSk1 | .subinvSk1 | .permSk1 | .perminvSk1 | .roundSk1 | .roundinvSk1 => 1
  | .subSk2 | .subinvSk2 | .permSk2 | .perminvSk2 | .roundSk2 | .roundinvSk2 => 2
  | _ => 0

/-- The word of given fields (R80). -/
def wordOf (f : CmdFields) : Word := f.rsv ++ f.sel ++ f.op

/-- The command word of a command: `enc(MNEM, n) = (n << 4) | OP(MNEM)`, with RSV = 0 (R92, R94). -/
def encode (i : Instr) : Word := wordOf ⟨instrOp i, instrSel i, 0⟩

/-- The decoder on a word numbered as the opcode table numbers it: the bits above `nbits` are zero, and a
number that does not fit one command word is none. -/
def decodeTableWord (nbits w : Nat) : Option Instr :=
  let v := w % 2 ^ nbits
  if v < 2 ^ 32 then decodeInstr (BitVec.ofNat 32 v) else none

end Sys2Proof
end

