-- ==== Sys2Proof/Machine/State.lean ====
section
/-! DEFINITION. The state of the machine: the core's registers (10_state.md R21, R38) and, beside them, the
environment that drives it (log entry 1), with the reset state (R37) and the reasons to stop (R267). -/

namespace Sys2Proof.Machine

/-- A bus access: its kind, word index and write data (20_memory.md R51). -/
inductive BusAccess where
  | read (idx : BitVec 4)
  | write (idx : BitVec 4) (data : Word)
  deriving DecidableEq, Repr

/-- The kind of an access a host processor issues. -/
inductive AccessKind where
  | load
  | store
  deriving DecidableEq, Repr

/-- An access as a host processor issues it, by byte address and width in bytes, before any bus bridge
(20_memory.md R50, R65). `data` is what a store carries. -/
structure ByteRequest where
  kind : AccessKind
  addr : Nat
  size : Nat
  data : Word
  deriving DecidableEq, Repr

/-- One operation of the host's program: a bus access (R52), an access by byte address (R50, R65), or the
`wait` loop (30_encoding.md R93). -/
inductive HostOp where
  | bus (a : BusAccess)
  | request (r : ByteRequest)
  | wait
  deriving DecidableEq, Repr

/-- Who moves at a step: the host or the engine (R20), or the external reset event (R290). -/
inductive Turn where
  | host
  | engine
  | reset
  deriving DecidableEq, Repr

/-- The state record of R38 (BUSY is not stored: R27), and the environment's three lists.

* `key`, `sk0`, `sk1`, `sk2`, `din`, `dout`: the registers of R21.
* `done`, `err`, `errcode`, `skv`: the stored STATUS fields (R26).
* `pending`: the accepted, not yet complete command (R34).
* `program`: what the host will still do, in order (R70); `turns`: who moves next (R300); `reads`: the values
  the host's reads have returned, oldest first (R92). These three are the model's own (log entry 1). -/
structure State where
  key     : Word
  sk0     : Word
  sk1     : Word
  sk2     : Word
  din     : Word
  dout    : Word
  done    : Bool
  err     : Bool
  errcode : BitVec 3
  skv     : Bool
  pending : Option (BitVec 4 × BitVec 2)
  program : List HostOp
  turns   : List Turn
  reads   : List Word
  deriving DecidableEq, Repr

/-- The state right after reset (R37, R291); the environment's lists are empty (log entry 1). -/
def State.reset : State where
  key := 0
  sk0 := 0
  sk1 := 0
  sk2 := 0
  din := 0
  dout := 0
  done := false
  err := false
  errcode := 0
  skv := false
  pending := none
  program := []
  turns := []
  reads := []

/-- Why the machine stops with a fault. -/
inductive Fault where
  /-- Raised by the engine when PENDING holds a pair outside the 23 legal ones (R88, R267, U8). No run reaches
  it. Safe: the model stops where no hardware behaviour exists. -/
  | illegalPending
  deriving DecidableEq, Repr

/-- Why the machine refuses a step. -/
inductive Refusal where
  /-- Would be raised by an arm of `exec` without a meaning; no arm is. Safe: the model stops. -/
  | notModelled (mnemonic : String)
  /-- Raised by the host's step for a byte request that is not 32 bits wide (R65, U7). Safe: the interface cannot
  carry the access, and the model stops. -/
  | accessWidth
  /-- Raised by the host's step for a 32-bit byte request at an address that is no multiple of 4 (R65, U7).
  Safe, as `accessWidth`. -/
  | accessMisaligned
  /-- Raised by the host's step for an aligned 32-bit byte request outside the register window (R50): it is an
  access to some other device, which the spec does not describe. Safe: the model stops. -/
  | accessOutsideWindow
  deriving DecidableEq, Repr

end Sys2Proof.Machine
end

