-- ==== Sys2Proof/Machine/Operands.lean ====
section
/-! DEFINITION. The operands: bytes and bit fields of words (00_scope.md R8, R14), the subkey a command selects
(10_state.md R23), and the register behind each word index (R21). -/

namespace Sys2Proof.Machine

/-- The byte of a word in lane `l`, bits 8l+7 to 8l (41_sbox_substitution.md R122). -/
def lane (l : Nat) (w : Word) : Byte := w.extractLsb' (8 * l) 8

/-- `be32`: four bytes as a word, the first in bits 31:24 (R14). -/
def be32 (b0 b1 b2 b3 : Byte) : Word := b0 ++ b1 ++ b2 ++ b3

/-- `bytes_be`: the four bytes of a word, bits 31:24 first (R14). -/
def bytesBe (w : Word) : List Byte := [lane 3 w, lane 2 w, lane 1 w, lane 0 w]

/-- `SK[i]`, i in 0..2 (R12, R23). -/
def readSk (i : Fin 3) (s : State) : Word :=
  match i with
  | 0 => s.sk0
  | 1 => s.sk1
  | 2 => s.sk2

/-- The three subkeys as the core holds them (R23). -/
def subkeys (s : State) : SubkeySet := ⟨s.sk0, s.sk1, s.sk2⟩

/-- What stands at a word index of the window (R21). -/
inductive Reg where
  | key
  | sk (i : Fin 3)
  | din
  | dout
  | status
  | cmd
  | reserved
  deriving DecidableEq, Repr

/-- The register at each word index (R21, R55). -/
def regAt (idx : BitVec 4) : Reg :=
  match idx.toNat with
  | 0 => .key
  | 1 => .sk 0
  | 2 => .sk 1
  | 3 => .sk 2
  | 4 => .din
  | 5 => .dout
  | 6 => .status
  | 7 => .cmd
  | _ => .reserved

end Sys2Proof.Machine
end

