-- ==== Sys2Proof/Machine/Flags.lean ====
section
/-! DEFINITION. STATUS: its computed flag BUSY and the word a read returns (10_state.md R26, R27). The core has no
arithmetic flags (R31). -/

namespace Sys2Proof.Machine

/-- BUSY: 1 exactly when a command is pending (R27). -/
def busy (s : State) : Bool := s.pending.isSome

/-- The word a read of STATUS returns (R26, R53): `zext_32(ERRCODE ++ 0b0000 ++ SKV ++ ERR ++ DONE ++ BUSY)`. -/
def statusWord (s : State) : Word :=
  (s.errcode ++ 0#4 ++ BitVec.ofBool s.skv ++ BitVec.ofBool s.err ++ BitVec.ofBool s.done
    ++ BitVec.ofBool (busy s) : BitVec 11).setWidth 32

end Sys2Proof.Machine
end

