-- ==== Sys2Proof/Machine/Ops.lean ====
section
/-! DEFINITION. The named operations over the registers: recording and clearing an error (60_exceptions.md R262, R265),
the command life (30_encoding.md R84-R87), bus reads and writes (20_memory.md R53-R62), reset (70_reset_and_hazards.md
R290). The core has no memory (R40). Recording an error is what this core has in place of taking an exception, and
clearing it what it has in place of a return: there is no vector, no saved pc and no mode (R262, R265). -/

namespace Sys2Proof.Machine

/-- `raise Error(c)`: the first error since ERR was clear is recorded, a later one changes nothing (R262). -/
def raiseError (c : ErrCause) (s : State) : State :=
  if s.err then s else { s with err := true, errcode := causeCode c }

/-- Clearing ERR and, with it, ERRCODE (R61, R265). -/
def clearError (s : State) : State := { s with err := false, errcode := 0 }

/-- Accept(op, sel): the pair becomes PENDING, so BUSY reads 1, and DONE is cleared (R86). -/
def accept (op : BitVec 4) (sel : BitVec 2) (s : State) : State :=
  { s with pending := some (op, sel), done := false }

/-- Refuse(c): the error is recorded and DONE set (R85). -/
def refuse (c : ErrCause) (s : State) : State := { raiseError c s with done := true }

/-- The end of every completion: PENDING becomes none, so BUSY reads 0, and DONE is set (R87). -/
def finish (s : State) : State := { s with pending := none, done := true }

/-- A command with destination DOUT completes with the word `v` (R25, R87). -/
def completeDout (v : Word) (s : State) : State := finish { s with dout := v }

/-- A word offered as a command by a write to CMD: overrun while BUSY, else refused or accepted as it decodes
(R84). -/
def offerCmd (w : Word) (s : State) : State :=
  if busy s then raiseError .cmdOverrun s
  else
    match decode w with
    | .illegal c => refuse c s
    | .legal op sel => accept op sel s

/-- A write to a register that is dropped with an error while BUSY and else has the effect `f` (R56-R58). -/
def writeUnlessBusy (f : State → State) (s : State) : State :=
  if busy s then raiseError .writeWhileBusy s else f s

/-- KEY takes the value and SKV is cleared (R56). -/
def setKey (v : Word) (s : State) : State := { s with key := v, skv := false }

/-- `SK[i]` takes the value and SKV is cleared (R57). -/
def setSk (i : Fin 3) (v : Word) (s : State) : State :=
  { s with
    sk0 := if i = 0 then v else s.sk0
    sk1 := if i = 1 then v else s.sk1
    sk2 := if i = 2 then v else s.sk2
    skv := false }

/-- DIN takes the value (R58). -/
def setDin (v : Word) (s : State) : State := { s with din := v }

/-- `BusRead(idx)`: the value returned; no state changes (R53). -/
def busRead (idx : BitVec 4) (s : State) : Word :=
  match regAt idx with
  | .key => s.key
  | .sk i => readSk i s
  | .din => s.din
  | .dout => s.dout
  | .status => statusWord s
  | .cmd => 0
  | .reserved => 0

/-- `BusWrite(idx, v)` (R55-R62). -/
def busWrite (idx : BitVec 4) (v : Word) (s : State) : State :=
  match regAt idx with
  | .key => writeUnlessBusy (setKey v) s
  | .sk i => writeUnlessBusy (setSk i v) s
  | .din => writeUnlessBusy (setDin v) s
  | .dout => s
  | .status => if v.getLsbD 2 then clearError s else s
  | .cmd => offerCmd v s
  | .reserved => s

/-- A value a read returned, appended to the host's read log (R92). -/
def logRead (v : Word) (s : State) : State := { s with reads := s.reads ++ [v] }

/-- One bus access as the host makes it (R52): a read changes nothing of the core (R53). -/
def busAccess (a : BusAccess) (s : State) : State :=
  match a with
  | .read idx => logRead (busRead idx s) s
  | .write idx v => busWrite idx v s

/-- Reset: every piece of the core's state takes its value of R37 and the pending command is lost (R290, R306).
The host's program and read log are no part of the core and stand (log entry 9). -/
def resetCore (s : State) : State :=
  { State.reset with program := s.program, turns := s.turns, reads := s.reads }

end Sys2Proof.Machine
end

