-- ==== Sys2Proof/Machine/Permutation.lean ====
section
/-! DEFINITION. The bit-permutation network, PERM and PERMINV (42_bit_permutation.md R140-R147). Bit position `i`
is the bit of weight 2^i (00_scope.md R8). Positions and the two parameters are natural numbers, reduced mod 32. -/

namespace Sys2Proof.Machine

/-- `multiplier(sk) = (sk & 0x1F) | 1` (R140): odd, in 1..31. -/
def multiplier (sk : Word) : Nat := ((sk &&& 0x1F#32) ||| 1#32).toNat

/-- `addend(sk) = (sk >> 5) & 0x1F` (R140): in 0..31. -/
def addend (sk : Word) : Nat := ((sk >>> 5) &&& 0x1F#32).toNat

/-- The word `y` whose bit `pos i` is bit `i` of `x`, for i in 0..31: every bit moves to its new position. -/
def moveBits (pos : Nat → Nat) (x : Word) : Word :=
  (List.range 32).foldl (fun y i => y ||| (((x >>> i) &&& 1#32) <<< pos i)) 0#32

/-- Where `permute` moves bit `i` (R141). -/
def permPos (m a i : Nat) : Nat := (m * i + a) % 32

/-- The row of R142's table, for m = 1, 3, 5, ..., 31 in order. -/
def invMultiplierTable : List Nat :=
  [1, 11, 13, 23, 25, 3, 5, 15, 17, 27, 29, 7, 9, 19, 21, 31]

/-- `inv_multiplier(m)` for odd m in 1..31, by the table (R142); no other m arises (log entry 11). -/
def invMultiplier (m : Nat) : Nat := invMultiplierTable.getD (m / 2) 0

/-- Where `permute_inv` moves bit `j`: `(v * (j - a)) mod 32`, exact integer arithmetic and then the non-negative
residue (R10, R143). -/
def perminvPos (m a j : Nat) : Nat :=
  (((invMultiplier m : Int) * ((j : Int) - (a : Int))) % 32).toNat

/-- `permute` (R141). -/
def permute (x sk : Word) : Word := moveBits (permPos (multiplier sk) (addend sk)) x

/-- `permute_inv` (R143). -/
def permuteInv (y sk : Word) : Word := moveBits (perminvPos (multiplier sk) (addend sk)) y

/-- PERM (R146) under the subkey `SK[i]`. -/
def permUnder (i : Fin 3) (s : State) : Host.Outcome State Fault Refusal :=
  .next (completeDout (permute s.din (readSk i s)) s)

/-- PERMINV (R147) under the subkey `SK[i]`. -/
def perminvUnder (i : Fin 3) (s : State) : Host.Outcome State Fault Refusal :=
  .next (completeDout (permuteInv s.din (readSk i s)) s)

/-- `cmd PERM, sk0` (R146). -/
def execPermSk0 (s : State) : Host.Outcome State Fault Refusal := permUnder 0 s

/-- `cmd PERM, sk1` (R146). -/
def execPermSk1 (s : State) : Host.Outcome State Fault Refusal := permUnder 1 s

/-- `cmd PERM, sk2` (R146). -/
def execPermSk2 (s : State) : Host.Outcome State Fault Refusal := permUnder 2 s

/-- `cmd PERMINV, sk0` (R147). -/
def execPerminvSk0 (s : State) : Host.Outcome State Fault Refusal := perminvUnder 0 s

/-- `cmd PERMINV, sk1` (R147). -/
def execPerminvSk1 (s : State) : Host.Outcome State Fault Refusal := perminvUnder 1 s

/-- `cmd PERMINV, sk2` (R147). -/
def execPerminvSk2 (s : State) : Host.Outcome State Fault Refusal := perminvUnder 2 s

end Sys2Proof.Machine
end

