-- ==== Sys2Proof/Machine/Substitution.lean ====
section
/-! DEFINITION. The S-box substitution, SUB and SUBINV (41_sbox_substitution.md R120-R126). -/

namespace Sys2Proof.Machine

/-- `sbox(b, kb) = (b + kb) mod 256` (R120). -/
def sbox (b kb : Byte) : Byte := b + kb

/-- `sbox_inv(b, kb) = (b - kb) mod 256` (R121). -/
def sboxInv (b kb : Byte) : Byte := b - kb

/-- A byte function applied to each of the four lanes of two words, no lane reading another (R122). -/
def mapLanes (f : Byte → Byte → Byte) (x sk : Word) : Word :=
  be32 (f (lane 3 x) (lane 3 sk)) (f (lane 2 x) (lane 2 sk))
    (f (lane 1 x) (lane 1 sk)) (f (lane 0 x) (lane 0 sk))

/-- `substitute` (R122). -/
def substitute (x sk : Word) : Word := mapLanes sbox x sk

/-- `substitute_inv` (R123). -/
def substituteInv (x sk : Word) : Word := mapLanes sboxInv x sk

/-- SUB (R125) under the subkey `SK[i]`. -/
def subUnder (i : Fin 3) (s : State) : Host.Outcome State Fault Refusal :=
  .next (completeDout (substitute s.din (readSk i s)) s)

/-- SUBINV (R126) under the subkey `SK[i]`. -/
def subinvUnder (i : Fin 3) (s : State) : Host.Outcome State Fault Refusal :=
  .next (completeDout (substituteInv s.din (readSk i s)) s)

/-- `cmd SUB, sk0` (R125). -/
def execSubSk0 (s : State) : Host.Outcome State Fault Refusal := subUnder 0 s

/-- `cmd SUB, sk1` (R125). -/
def execSubSk1 (s : State) : Host.Outcome State Fault Refusal := subUnder 1 s

/-- `cmd SUB, sk2` (R125). -/
def execSubSk2 (s : State) : Host.Outcome State Fault Refusal := subUnder 2 s

/-- `cmd SUBINV, sk0` (R126). -/
def execSubinvSk0 (s : State) : Host.Outcome State Fault Refusal := subinvUnder 0 s

/-- `cmd SUBINV, sk1` (R126). -/
def execSubinvSk1 (s : State) : Host.Outcome State Fault Refusal := subinvUnder 1 s

/-- `cmd SUBINV, sk2` (R126). -/
def execSubinvSk2 (s : State) : Host.Outcome State Fault Refusal := subinvUnder 2 s

end Sys2Proof.Machine
end

