-- ==== Sys2Proof/Machine/Round.lean ====
section
/-! DEFINITION. One round and its inverse, ROUND and ROUNDINV (43_round_function.md R170-R174). -/

namespace Sys2Proof.Machine

/-- `round_enc`: substitution first, then permutation, both under one subkey (R170). -/
def roundEnc (x sk : Word) : Word := permute (substitute x sk) sk

/-- `round_dec`: inverse permutation first, then inverse substitution (R171). -/
def roundDec (x sk : Word) : Word := substituteInv (permuteInv x sk) sk

/-- ROUND (R172) under the subkey `SK[i]`. -/
def roundUnder (i : Fin 3) (s : State) : Host.Outcome State Fault Refusal :=
  .next (completeDout (roundEnc s.din (readSk i s)) s)

/-- ROUNDINV (R173) under the subkey `SK[i]`. -/
def roundinvUnder (i : Fin 3) (s : State) : Host.Outcome State Fault Refusal :=
  .next (completeDout (roundDec s.din (readSk i s)) s)

/-- `cmd ROUND, sk0` (R172). -/
def execRoundSk0 (s : State) : Host.Outcome State Fault Refusal := roundUnder 0 s

/-- `cmd ROUND, sk1` (R172). -/
def execRoundSk1 (s : State) : Host.Outcome State Fault Refusal := roundUnder 1 s

/-- `cmd ROUND, sk2` (R172). -/
def execRoundSk2 (s : State) : Host.Outcome State Fault Refusal := roundUnder 2 s

/-- `cmd ROUNDINV, sk0` (R173). -/
def execRoundinvSk0 (s : State) : Host.Outcome State Fault Refusal := roundinvUnder 0 s

/-- `cmd ROUNDINV, sk1` (R173). -/
def execRoundinvSk1 (s : State) : Host.Outcome State Fault Refusal := roundinvUnder 1 s

/-- `cmd ROUNDINV, sk2` (R173). -/
def execRoundinvSk2 (s : State) : Host.Outcome State Fault Refusal := roundinvUnder 2 s

end Sys2Proof.Machine
end

