-- ==== Sys2Proof/Machine/Subkey.lean ====
section
/-! DEFINITION. The subkey scheduler and DERIVE (40_subkey_scheduler.md R100-R105). -/

namespace Sys2Proof.Machine

/-- `rotate_left_32(x, n)` for n in 1..31 (R100). -/
def rotateLeft32 (x : Word) (n : Nat) : Word := (x <<< n) ||| (x >>> (32 - n))

/-- The subkey of round `i`: the key rotated by i+1 and by 3(i+1), combined by XOR (R101). -/
def subkey (key : Word) (i : Nat) : Word :=
  rotateLeft32 key (i + 1) ^^^ rotateLeft32 key ((i + 1) * 3)

/-- `derive_subkeys` (R101). -/
def deriveSubkeys (key : Word) : SubkeySet := ⟨subkey key 0, subkey key 1, subkey key 2⟩

/-- DERIVE (R104). -/
def execDerive (s : State) : Host.Outcome State Fault Refusal :=
  let k := deriveSubkeys s.key
  .next (finish { s with sk0 := k.k0, sk1 := k.k1, sk2 := k.k2, skv := true })

end Sys2Proof.Machine
end

