-- ==== Sys2Proof/Machine/Block.lean ====
section
/-! DEFINITION. Block encryption and decryption, ENCRYPT and DECRYPT (44_block_cipher.md R190-R197). -/

namespace Sys2Proof.Machine

/-- `encrypt_block`: rounds 0, 1, 2, round i under subkey i (R190, R41). -/
def encryptBlock (x : Word) (sk : SubkeySet) : Word :=
  roundEnc (roundEnc (roundEnc x sk.k0) sk.k1) sk.k2

/-- `decrypt_block`: inverse rounds 2, 1, 0, round i under subkey i (R191, R41). -/
def decryptBlock (x : Word) (sk : SubkeySet) : Word :=
  roundDec (roundDec (roundDec x sk.k2) sk.k1) sk.k0

/-- ENCRYPT (R192). -/
def execEncrypt (s : State) : Host.Outcome State Fault Refusal :=
  .next (completeDout (encryptBlock s.din (subkeys s)) s)

/-- DECRYPT (R193). -/
def execDecrypt (s : State) : Host.Outcome State Fault Refusal :=
  .next (completeDout (decryptBlock s.din (subkeys s)) s)

end Sys2Proof.Machine
end

