-- ==== Sys2Proof/Machine/Control.lean ====
section
/-! DEFINITION. The control commands NOP and ZEROIZE (45_control.md R210, R211). -/

namespace Sys2Proof.Machine

/-- NOP: no register is written; BUSY and DONE as for every command (R210). -/
def execNop (s : State) : Host.Outcome State Fault Refusal := .next (finish s)

/-- ZEROIZE: every key and data register and SKV are cleared; ERR and ERRCODE stand (R211, R29). -/
def execZeroize (s : State) : Host.Outcome State Fault Refusal :=
  .next (finish { s with key := 0, sk0 := 0, sk1 := 0, sk2 := 0, din := 0, dout := 0, skv := false })

end Sys2Proof.Machine
end

