-- ==== Sys2Proof/Machine/Dispatch.lean ====
section
/-! DEFINITION. The dispatch: one arm per command, each one call of its meaning (30_encoding.md R88). -/

namespace Sys2Proof.Machine

def exec (i : Instr) (s : State) : Host.Outcome State Fault Refusal :=
  match i with
  | .nop => Sys2Proof.Machine.execNop s
  | .derive => Sys2Proof.Machine.execDerive s
  | .encrypt => Sys2Proof.Machine.execEncrypt s
  | .decrypt => Sys2Proof.Machine.execDecrypt s
  | .subSk0 => Sys2Proof.Machine.execSubSk0 s
  | .subSk1 => Sys2Proof.Machine.execSubSk1 s
  | .subSk2 => Sys2Proof.Machine.execSubSk2 s
  | .subinvSk0 => Sys2Proof.Machine.execSubinvSk0 s
  | .subinvSk1 => Sys2Proof.Machine.execSubinvSk1 s
  | .subinvSk2 => Sys2Proof.Machine.execSubinvSk2 s
  | .permSk0 => Sys2Proof.Machine.execPermSk0 s
  | .permSk1 => Sys2Proof.Machine.execPermSk1 s
  | .permSk2 => Sys2Proof.Machine.execPermSk2 s
  | .perminvSk0 => Sys2Proof.Machine.execPerminvSk0 s
  | .perminvSk1 => Sys2Proof.Machine.execPerminvSk1 s
  | .perminvSk2 => Sys2Proof.Machine.execPerminvSk2 s
  | .roundSk0 => Sys2Proof.Machine.execRoundSk0 s
  | .roundSk1 => Sys2Proof.Machine.execRoundSk1 s
  | .roundSk2 => Sys2Proof.Machine.execRoundSk2 s
  | .roundinvSk0 => Sys2Proof.Machine.execRoundinvSk0 s
  | .roundinvSk1 => Sys2Proof.Machine.execRoundinvSk1 s
  | .roundinvSk2 => Sys2Proof.Machine.execRoundinvSk2 s
  | .zeroize => Sys2Proof.Machine.execZeroize s

end Sys2Proof.Machine
end

