-- ==== Sys2Proof/Machine/Engine.lean ====
section
/-! DEFINITION. The engine's step (30_encoding.md R87, R88), and how the model places a command for it. -/

namespace Sys2Proof.Machine

/-- Complete: the pending command runs (R87). With PENDING = none the engine is not enabled and nothing changes
(log entry 3); a PENDING pair that is no command faults (R88, R267). -/
def engineStep (s : State) : Host.Outcome State Fault Refusal :=
  match s.pending with
  | none => .next s
  | some (op, sel) =>
    match pairInstr op sel with
    | some i => exec i s
    | none => .fault .illegalPending

/-- The state in which the word `w` is the next command to run: accepted (R86), with the engine to move. A word
that is no command cannot be pending: the host then offers it next, with nothing pending (R84; log entry 4). -/
def placeWord (w : Word) (s : State) : State :=
  match decode w with
  | .legal op sel => { accept op sel s with turns := .engine :: s.turns }
  | .illegal _ =>
    { s with pending := none, program := .bus (.write 7 w) :: s.program, turns := .host :: s.turns }

/-- `placeWord` on a word numbered as the opcode table numbers it (log entry 4). -/
def placeTableWord (nbits w : Nat) (s : State) : State :=
  placeWord (BitVec.ofNat 32 (w % 2 ^ nbits)) s

end Sys2Proof.Machine
end

