-- ==== Sys2Proof/Machine/HostAgent.lean ====
section
/-! DEFINITION. The host's step: one bus access of its program (20_memory.md R52, R70), the translation of an access
by byte address into a bus access (R50, R65), and the `wait` loop (30_encoding.md R93). -/

namespace Sys2Proof.Machine

/-- The word index of STATUS (R21). -/
def statusIdx : BitVec 4 := 6

/-- The bus access a host processor's access becomes when the window stands at byte address `base` (R50), or the
reason it cannot become one: only a whole aligned 32-bit word reaches the core (R65). The order of the tests is
the model's (log entry 7). -/
def bridge (base : Nat) (r : ByteRequest) : Except Refusal BusAccess :=
  if r.size ≠ 4 then .error .accessWidth
  else if r.addr % 4 ≠ 0 then .error .accessMisaligned
  else if r.addr < base ∨ base + 64 ≤ r.addr then .error .accessOutsideWindow
  else
    let idx := BitVec.ofNat 4 ((r.addr - base) / 4)
    match r.kind with
    | .load => .ok (.read idx)
    | .store => .ok (.write idx r.data)

/-- The host's program without its next operation. -/
def dropOp (s : State) : State := { s with program := s.program.tail }

/-- The host's step: its next operation, one bus access. `wait` reads STATUS and stays while the value read has
BUSY = 1 (R93). A host whose program has ended does nothing. -/
def hostStep (s : State) : Host.Outcome State Fault Refusal :=
  match s.program with
  | [] => .next s
  | .bus a :: _ => .next (busAccess a (dropOp s))
  | .request r :: _ =>
    match bridge Config.baseAddr r with
    | .ok a => .next (busAccess a (dropOp s))
    | .error e => .refused e
  | .wait :: _ =>
    .next (busAccess (.read statusIdx) (if (busRead statusIdx s).getLsbD 0 then s else dropOp s))

/-- Who moves at this step: the head of `turns`; where the list has run out, the engine if a command is pending,
else the host (R301's weak fairness; log entry 2). -/
def mover (s : State) : Turn :=
  match s.turns with
  | t :: _ => t
  | [] => if busy s then .engine else .host

/-- The state with this step's entry of `turns` used up. -/
def takeTurn (s : State) : State := { s with turns := s.turns.tail }

end Sys2Proof.Machine
end

