-- ==== Sys2Proof/Machine/Step.lean ====
section
/-! DEFINITION. One step of the machine: the agent whose turn it is moves (10_state.md R20, 20_memory.md R70). -/

namespace Sys2Proof.Machine

/-- One step: the host makes one bus access (R52), or the engine completes the pending command (R87), or reset
happens (R290). -/
def step (s : State) : Host.Outcome State Fault Refusal :=
  match mover s with
  | .host => hostStep (takeTurn s)
  | .engine => engineStep (takeTurn s)
  | .reset => .next (resetCore (takeTurn s))

/-- The state in which the next step runs the command word `w` (log entry 4). -/
def State.withFetchWord (s : State) (nbits w : Nat) : State := placeTableWord nbits w s

end Sys2Proof.Machine
end

