-- ==== Sys2Proof/Machine/Codec.lean ====
section
/-! DEFINITION. The block-stream codec of the host software that drives the core (50_host_codec.md R230-R240). It is
outside the hardware (00_scope.md R5): pure functions, which no step of the machine reads. Text is a list of characters;
UTF-8 is an argument (93_implementation_defined.md G1, H2; log entry 15). -/

namespace Sys2Proof.Machine

/-- The host layer's errors (R239) and the strict mode's (R236). None of them reaches the core. -/
inductive HostError where
  | invalidKey
  | invalidCiphertextFormat
  | invalidCiphertextLength
  | decodeError
  deriving DecidableEq, Repr

/-- What the host does with decrypted bytes that are not UTF-8: decode them byte by byte, or report it (R236). -/
inductive TextMode where
  | lenient
  | strict
  deriving DecidableEq, Repr

/-- `read_blocks`: consecutive groups of four bytes as words, a short last group padded on the right with zero bytes
(R230). -/
def readBlocks : List Byte → List Word
  | [] => []
  | [a] => [be32 a 0 0 0]
  | [a, b] => [be32 a b 0 0]
  | [a, b, c] => [be32 a b c 0]
  | a :: b :: c :: d :: rest => be32 a b c d :: readBlocks rest

/-- `encrypt_bytes` (R231). -/
def encryptBytes (payload : List Byte) (key : Word) : List Byte :=
  let sk := deriveSubkeys key
  (readBlocks payload).flatMap fun x => bytesBe (encryptBlock x sk)

/-- `decrypt_bytes`: the length is checked before any block is decrypted, and no padding is removed (R232). -/
def decryptBytes (ct : List Byte) (key : Word) : Except HostError (List Byte) :=
  if ct.length % 4 ≠ 0 then .error .invalidCiphertextLength
  else
    let sk := deriveSubkeys key
    .ok ((readBlocks ct).flatMap fun x => bytesBe (decryptBlock x sk))

/-- The lowercase hex digit of a number below 16 (R234). -/
def hexDigit (n : Nat) : Char := if n < 10 then Char.ofNat (48 + n) else Char.ofNat (87 + n)

/-- The value of a hex digit in either case, none for any other character (R235 steps 1 and 3). -/
def hexValue? (c : Char) : Option Nat :=
  let n := c.toNat
  if 48 ≤ n ∧ n ≤ 57 then some (n - 48)
  else if 97 ≤ n ∧ n ≤ 102 then some (n - 87)
  else if 65 ≤ n ∧ n ≤ 70 then some (n - 55)
  else none

/-- The hex text of bytes: two lowercase digits each, most-significant nibble first, nothing between (R234, R240). -/
def hexText (bytes : List Byte) : List Char :=
  bytes.flatMap fun b => [hexDigit (b.toNat / 16), hexDigit (b.toNat % 16)]

/-- The bytes of a hex text of even length, two digits a byte (R235 step 3). -/
def hexBytes : List Char → List Byte
  | hi :: lo :: rest =>
    BitVec.ofNat 8 (16 * (hexValue? hi).getD 0 + (hexValue? lo).getD 0) :: hexBytes rest
  | _ => []

/-- `encrypt_text` (R234). -/
def encryptText (utf8Encode : List Char → List Byte) (text : List Char) (key : Word) : List Char :=
  hexText (encryptBytes (utf8Encode text) key)

/-- Trailing zero bytes of the last four-byte block removed, the blocks before it untouched (R235 step 6). -/
def stripPadding (pt : List Byte) : List Byte :=
  pt.take (pt.length - 4) ++ ((pt.drop (pt.length - 4)).reverse.dropWhile (· == 0)).reverse

/-- The single-byte decode: byte `b` is the character of code point `b` (R236, G2). -/
def singleByteDecode (bytes : List Byte) : List Char := bytes.map fun b => Char.ofNat b.toNat

/-- `decrypt_text`, its checks in the order of R235; step 4 is `decryptBytes`' own first check. A text that is not
UTF-8 is decoded byte by byte, or reported where the host is in strict mode (R236). -/
def decryptText (mode : TextMode) (utf8Decode : List Byte → Option (List Char)) (h : List Char) (key : Word) :
    Except HostError (List Char) :=
  if h.any fun c => (hexValue? c).isNone then .error .invalidCiphertextFormat
  else if h.length % 2 ≠ 0 then .error .invalidCiphertextFormat
  else
    match decryptBytes (hexBytes h) key with
    | .error e => .error e
    | .ok pt =>
      let bytes := stripPadding pt
      match utf8Decode bytes, mode with
      | some text, _ => .ok text
      | none, .lenient => .ok (singleByteDecode bytes)
      | none, .strict => .error .decodeError

/-- The key at the boundary: 8 hex digits, read as a 32-bit number (R238). -/
def parseKey (text : List Char) : Except HostError Word :=
  if text.length ≠ 8 ∨ text.any fun c => (hexValue? c).isNone then .error .invalidKey
  else .ok (BitVec.ofNat 32 (text.foldl (fun n c => 16 * n + (hexValue? c).getD 0) 0))

end Sys2Proof.Machine
end

