-- ==== Sys2Proof/Machine/Asm.lean ====
section
/-! DEFINITION. The host's assembly: lines, pseudo-instructions, their expansion into bus accesses and their spelling
(30_encoding.md R92, R93), and the codec's operations as programs of the core (50_host_codec.md R231, R232). -/

namespace Sys2Proof.Machine

/-- The registers a line can name (R92). -/
inductive RegName where
  | key
  | sk0
  | sk1
  | sk2
  | din
  | dout
  | status
  | cmd
  deriving DecidableEq, Repr

/-- `idx(REG)` (R92, R21). -/
def regIdx : RegName → BitVec 4
  | .key => 0
  | .sk0 => 1
  | .sk1 => 2
  | .sk2 => 3
  | .din => 4
  | .dout => 5
  | .status => 6
  | .cmd => 7

/-- A line of host assembly (R92) or a pseudo-instruction (R93). `cmd SUB, sk3` and the like cannot be written. -/
inductive AsmLine where
  | wr (reg : RegName) (imm : Word)
  | rd (reg : RegName)
  | cmd (i : Instr)
  | wait
  | exec (i : Instr)
  | setkey (k : Word)
  | clrerr
  | encblk (v : Word)
  | decblk (v : Word)
  deriving DecidableEq, Repr

/-- `wr REG, imm32` as a bus access (R92). -/
def wrOp (reg : RegName) (imm : Word) : HostOp := .bus (.write (regIdx reg) imm)

/-- `rd REG` as a bus access (R92). -/
def rdOp (reg : RegName) : HostOp := .bus (.read (regIdx reg))

/-- `cmd MNEM` as a bus access: a write of its command word to CMD (R92). -/
def cmdOp (i : Instr) : HostOp := wrOp .cmd (encode i)

/-- `exec MNEM`: the command, then `wait` (R93). -/
def execOps (i : Instr) : List HostOp := [cmdOp i, .wait]

/-- The host operations a line expands to (R92, R93). -/
def expandLine : AsmLine → List HostOp
  | .wr reg imm => [wrOp reg imm]
  | .rd reg => [rdOp reg]
  | .cmd i => [cmdOp i]
  | .wait => [.wait]
  | .exec i => execOps i
  | .setkey k => wrOp .key k :: execOps .derive
  | .clrerr => [wrOp .status 0x00000004]
  | .encblk v => wrOp .din v :: (execOps .encrypt ++ [rdOp .dout])
  | .decblk v => wrOp .din v :: (execOps .decrypt ++ [rdOp .dout])

/-- The host program of a list of lines. -/
def assemble (lines : List AsmLine) : List HostOp := lines.flatMap expandLine

/-- A register's spelling (R92). -/
def regText : RegName → String
  | .key => "KEY"
  | .sk0 => "SK0"
  | .sk1 => "SK1"
  | .sk2 => "SK2"
  | .din => "DIN"
  | .dout => "DOUT"
  | .status => "STATUS"
  | .cmd => "CMD"

/-- A command's spelling after `cmd` or `exec` (R92, R94). -/
def instrText : Instr → String
  | .nop => "NOP"
  | .derive => "DERIVE"
  | .encrypt => "ENCRYPT"
  | .decrypt => "DECRYPT"
  | .subSk0 => "SUB, sk0"
  | .subSk1 => "SUB, sk1"
  | .subSk2 => "SUB, sk2"
  | .subinvSk0 => "SUBINV, sk0"
  | .subinvSk1 => "SUBINV, sk1"
  | .subinvSk2 => "SUBINV, sk2"
  | .permSk0 => "PERM, sk0"
  | .permSk1 => "PERM, sk1"
  | .permSk2 => "PERM, sk2"
  | .perminvSk0 => "PERMINV, sk0"
  | .perminvSk1 => "PERMINV, sk1"
  | .perminvSk2 => "PERMINV, sk2"
  | .roundSk0 => "ROUND, sk0"
  | .roundSk1 => "ROUND, sk1"
  | .roundSk2 => "ROUND, sk2"
  | .roundinvSk0 => "ROUNDINV, sk0"
  | .roundinvSk1 => "ROUNDINV, sk1"
  | .roundinvSk2 => "ROUNDINV, sk2"
  | .zeroize => "ZEROIZE"

/-- `imm32` in hex: `0x` and 8 digits (R92), capitals as the spec's programs write them (log entry 16). -/
def immText (v : Word) : String :=
  "0x" ++ String.ofList ((hexText (bytesBe v)).map Char.toUpper)

/-- The one spelling of a line (R92, R93); an assembler refuses any other (log entry 16). -/
def lineText : AsmLine → String
  | .wr reg imm => "wr " ++ regText reg ++ ", " ++ immText imm
  | .rd reg => "rd " ++ regText reg
  | .cmd i => "cmd " ++ instrText i
  | .wait => "wait"
  | .exec i => "exec " ++ instrText i
  | .setkey k => "setkey " ++ immText k
  | .clrerr => "clrerr"
  | .encblk v => "encblk " ++ immText v
  | .decblk v => "decblk " ++ immText v

/-- The assembler reads `text` as `line` exactly when `text` is its spelling (R92). -/
def readsAs (text : String) (line : AsmLine) : Prop := lineText line = text

/-- `encrypt_bytes` on the core: `setkey` once, then `encblk` per block (R231). -/
def encryptLines (payload : List Byte) (key : Word) : List AsmLine :=
  .setkey key :: (readBlocks payload).map .encblk

/-- `decrypt_bytes` on the core, for a ciphertext of whole blocks (R232). -/
def decryptLines (ct : List Byte) (key : Word) : List AsmLine :=
  .setkey key :: (readBlocks ct).map .decblk

end Sys2Proof.Machine
end

