-- ==== Sys2Proof/Safety.lean ====
section
/-! DEFINITION. What claims about the machine speak of: the legal pairs, the invariants, and the spec's relations
between a command's operands and its result, written with numbers and bit positions and none of the model's datapath
functions. -/

namespace Sys2Proof.Machine

/-- PENDING is none or one of the 23 legal pairs (R34, R83, R88). -/
def PendingLegal (s : State) : Prop :=
  ∀ p, s.pending = some p → CmdFields.WellFormed ⟨p.1, p.2, 0⟩

/-- While a command is pending DONE is 0 (R28). -/
def BusyNotDone (s : State) : Prop :=
  s.pending ≠ none → s.done = false

/-- ERRCODE is 0 while ERR is 0 and one of the codes 1 to 4 while ERR is 1 (R26, R260, U4). -/
def ErrcodeMatches (s : State) : Prop :=
  if s.err then 1 ≤ s.errcode.toNat ∧ s.errcode.toNat ≤ 4 else s.errcode = 0

/-- SKV = 1 only when SK0-SK2 are the subkeys of KEY (R26, R30). -/
def SkvHonest (s : State) : Prop :=
  s.skv = true → subkeys s = deriveSubkeys s.key

/-- What every state the core can be in satisfies. -/
structure CoreInv (s : State) : Prop where
  pendingLegal : PendingLegal s
  busyNotDone : BusyNotDone s
  errcodeMatches : ErrcodeMatches s
  skvHonest : SkvHonest s

/-- `t` is `s` but for DOUT, with the command completed: BUSY 0 and DONE 1 (R87; the frame of R125 and its like). -/
def OnlyDout (s t : State) : Prop :=
  t = { s with dout := t.dout, pending := none, done := true }

/-- `t` has the core's registers of `s`: everything the core holds but ERR and ERRCODE. -/
def SameButError (s t : State) : Prop :=
  t.key = s.key ∧ t.sk0 = s.sk0 ∧ t.sk1 = s.sk1 ∧ t.sk2 = s.sk2 ∧ t.din = s.din ∧ t.dout = s.dout
    ∧ t.done = s.done ∧ t.skv = s.skv ∧ t.pending = s.pending

/-- `n` steps of the machine, ending at the first fault or refusal. -/
def run : Nat → State → Host.Outcome State Fault Refusal
  | 0, s => .next s
  | n + 1, s =>
    match step s with
    | .next t => run n t
    | .fault r => .fault r
    | .refused r => .refused r

/-- It is the host's turn and `op` is its next operation. -/
def HostMoves (s : State) (op : HostOp) : Prop :=
  mover s = .host ∧ s.program.head? = some op

/-- The bus access the host's next operation makes, if it makes one that reaches the core (R52, R65, R93). -/
def hostAccess (s : State) : Option BusAccess :=
  match s.program with
  | [] => none
  | .bus a :: _ => some a
  | .request r :: _ => (bridge Config.baseAddr r).toOption
  | .wait :: _ => some (.read 6)

/-- This step is the host's and makes the access `a`. -/
def HostAccesses (s : State) (a : BusAccess) : Prop :=
  mover s = .host ∧ hostAccess s = some a

/-- This step completes the command `i` (R87). -/
def Completes (s : State) (i : Instr) : Prop :=
  mover s = .engine ∧ s.pending = some (instrOp i, instrSel i)

/-- Byte lane `l` of a word as a number (R122). -/
def laneNat (l : Nat) (w : Word) : Nat := w.toNat / 256 ^ l % 256

/-- `y` is `x` substituted under `sk`: each lane the sum mod 256 (R120, R122). -/
def IsSubstituted (x sk y : Word) : Prop :=
  ∀ l < 4, laneNat l y = (laneNat l x + laneNat l sk) % 256

/-- `y` is `x` inverse-substituted under `sk`: each lane the difference mod 256 (R121, R123). -/
def IsUnsubstituted (x sk y : Word) : Prop :=
  ∀ l < 4, laneNat l y = (laneNat l x + (256 - laneNat l sk)) % 256

/-- `m` is the multiplier of `sk`: its bits 4:1 with a one below (R140). -/
def multOf (sk : Word) : Nat := 2 * (sk.toNat / 2 % 16) + 1

/-- `a` is the addend of `sk`: its bits 9:5 (R140). -/
def addOf (sk : Word) : Nat := sk.toNat / 32 % 32

/-- `y` is `x` permuted under `sk`: bit `i` of `x` stands at `(m*i + a) mod 32` of `y` (R141). -/
def IsPermuted (x sk y : Word) : Prop :=
  ∀ i < 32, y.getLsbD ((multOf sk * i + addOf sk) % 32) = x.getLsbD i

/-- `y` is `x` inverse-permuted under `sk`: bit `j` of `x` stands at `(v*(j - a)) mod 32` of `y`, for the `v` of
1 to 31 with `(m*v) mod 32 = 1` (R142, R143). -/
def IsUnpermuted (x sk y : Word) : Prop :=
  ∃ v, 1 ≤ v ∧ v ≤ 31 ∧ multOf sk * v % 32 = 1
    ∧ ∀ j < 32, y.getLsbD ((v * (j + 32 - addOf sk)) % 32) = x.getLsbD j

/-- `y` is `x` after one encryption round under `sk` (R170). -/
def IsRound (x sk y : Word) : Prop :=
  ∃ z, IsSubstituted x sk z ∧ IsPermuted z sk y

/-- `y` is `x` after one decryption round under `sk` (R171). -/
def IsUnround (x sk y : Word) : Prop :=
  ∃ z, IsUnpermuted x sk z ∧ IsUnsubstituted z sk y

/-- `y` is `x` encrypted under the three subkeys, in the order 0, 1, 2 (R190). -/
def IsEncrypted (x k0 k1 k2 y : Word) : Prop :=
  ∃ u v, IsRound x k0 u ∧ IsRound u k1 v ∧ IsRound v k2 y

/-- `y` is `x` decrypted under the three subkeys, in the order 2, 1, 0 (R191). -/
def IsDecrypted (x k0 k1 k2 y : Word) : Prop :=
  ∃ u v, IsUnround x k2 u ∧ IsUnround u k1 v ∧ IsUnround v k0 y

/-- How many bits of a word are set. -/
def setBits (x : Word) : Nat := ((List.range 32).filter fun i => x.getLsbD i).length

/-- The bytes of a payload padded with zero bytes to the next multiple of 4 (R230, R237). -/
def padded (p : List Byte) : List Byte := p ++ List.replicate ((4 - p.length % 4) % 4) 0

end Sys2Proof.Machine
end

