-- ==== Sys2Proof/Certificates/Slice0/Obligations.lean ====
section
/-! DEFINITION. The statements for the provers, in the order of the spec's files. Each docstring says which rule it
formalises; a statement that rests on a choice of the model names the log entry. -/

open Sys2Proof Sys2Proof.Machine

/-! ## Words, state, reset -/

/-- R14: `be32` and `bytes_be`, the first byte in bits 31:24, and that they undo each other. -/
def Obligations.BytesAndWordsAgree : Prop :=
  (∀ w : Word, (bytesBe w).map BitVec.toNat = [laneNat 3 w, laneNat 2 w, laneNat 1 w, laneNat 0 w])
  ∧ (∀ b0 b1 b2 b3 : Byte, (be32 b0 b1 b2 b3).toNat
      = b0.toNat * 256 ^ 3 + b1.toNat * 256 ^ 2 + b2.toNat * 256 + b3.toNat)
  ∧ (∀ b0 b1 b2 b3 : Byte, bytesBe (be32 b0 b1 b2 b3) = [b0, b1, b2, b3])

/-- R37: every register, STATUS (whole and field by field) and PENDING right after reset; that the reset subkeys are those
derived from key 0, though SKV is 0; and that under them every data command's function is the identity. -/
def Obligations.ResetState : Prop :=
  State.reset.key = 0 ∧ State.reset.sk0 = 0 ∧ State.reset.sk1 = 0 ∧ State.reset.sk2 = 0
  ∧ State.reset.din = 0 ∧ State.reset.dout = 0 ∧ statusWord State.reset = 0
  ∧ busy State.reset = false ∧ State.reset.done = false ∧ State.reset.err = false ∧ State.reset.skv = false
  ∧ State.reset.errcode = 0 ∧ State.reset.pending = none
  ∧ deriveSubkeys 0 = subkeys State.reset
  ∧ ∀ x, substitute x State.reset.sk0 = x ∧ substituteInv x State.reset.sk0 = x ∧ permute x State.reset.sk0 = x
    ∧ permuteInv x State.reset.sk0 = x ∧ roundEnc x State.reset.sk0 = x ∧ roundDec x State.reset.sk0 = x
    ∧ encryptBlock x (subkeys State.reset) = x ∧ decryptBlock x (subkeys State.reset) = x

/-- The invariants hold at reset (R37 with R28, R30, R34, R260). -/
def Obligations.ResetMeetsInv : Prop := CoreInv State.reset

/-- Every step of either agent, and reset, keeps the invariants: PENDING a legal pair or none (R34, R88), DONE 0 while
BUSY (R28), ERRCODE among 0 to 4 and agreeing with ERR (R260), SKV = 1 only over the subkeys of KEY (R26). -/
def Obligations.StepKeepsInv : Prop :=
  ∀ s t, CoreInv s → step s = .next t → CoreInv t

/-- From R26: each bit of the word a read of STATUS returns, its value at reset, and that a host write of STATUS changes no
field but ERR and ERRCODE, whatever the value written. -/
def Obligations.StatusLayout : Prop :=
  (∀ s, (busRead 6 s).getLsbD 0 = s.pending.isSome ∧ (busRead 6 s).getLsbD 1 = s.done
    ∧ (busRead 6 s).getLsbD 2 = s.err ∧ (busRead 6 s).getLsbD 3 = s.skv
    ∧ (∀ k, 4 ≤ k → k < 8 → (busRead 6 s).getLsbD k = false)
    ∧ (∀ k, k < 3 → (busRead 6 s).getLsbD (8 + k) = s.errcode.getLsbD k)
    ∧ (∀ k, 11 ≤ k → (busRead 6 s).getLsbD k = false))
  ∧ busRead 6 State.reset = 0
  ∧ (∀ s v, SameButError s (busWrite 6 v s)
    ∧ (v.getLsbD 2 = true → (busWrite 6 v s).err = false ∧ (busWrite 6 v s).errcode = 0)
    ∧ (v.getLsbD 2 = false → busWrite 6 v s = s))

/-! ## Bus accesses -/

/-- A step in which the host makes a bus access (R52, R70): the access takes effect on the state with the operation and the
turn used up (log entry 1), a read appending its value to the host's read log (R92) and changing nothing else; a host with
nothing left to do changes nothing. -/
def Obligations.HostStepMakesAccess : Prop :=
  (∀ s idx, HostMoves s (.bus (.read idx)) →
    step s = .next { s with program := s.program.tail, turns := s.turns.tail, reads := s.reads ++ [busRead idx s] })
  ∧ (∀ s idx v, HostMoves s (.bus (.write idx v)) →
    step s = .next (busWrite idx v { s with program := s.program.tail, turns := s.turns.tail }))
  ∧ (∀ s, mover s = .host → s.program = [] → step s = .next { s with turns := s.turns.tail })

/-- R53: what a read of each index returns; and that as an access it changes no register, STATUS field or PENDING. -/
def Obligations.BusReadReturns : Prop :=
  (∀ s, busRead 0 s = s.key ∧ busRead 1 s = s.sk0 ∧ busRead 2 s = s.sk1 ∧ busRead 3 s = s.sk2
    ∧ busRead 4 s = s.din ∧ busRead 5 s = s.dout
    ∧ (busRead 6 s).toNat = s.errcode.toNat * 256 + s.skv.toNat * 8 + s.err.toNat * 4
        + s.done.toNat * 2 + s.pending.isSome.toNat
    ∧ (∀ idx : BitVec 4, 7 ≤ idx.toNat → busRead idx s = 0))
  ∧ (∀ s idx, SameButError s (busAccess (.read idx) s)
    ∧ (busAccess (.read idx) s).err = s.err ∧ (busAccess (.read idx) s).errcode = s.errcode)

/-- R56: a write to KEY. While BUSY it is dropped and recorded as WRITE_WHILE_BUSY (4), unless an error already stands. -/
def Obligations.KeyWrite : Prop :=
  ∀ s v, busWrite 0 v s =
    if s.pending.isSome then { s with err := true, errcode := if s.err then s.errcode else 4 }
    else { s with key := v, skv := false }

/-- R57: a write to SK0, SK1 or SK2, at index 1, 2 or 3. -/
def Obligations.SubkeyWrite : Prop :=
  ∀ s v, ∀ n : Fin 3, busWrite (BitVec.ofNat 4 (n.val + 1)) v s =
    if s.pending.isSome then { s with err := true, errcode := if s.err then s.errcode else 4 }
    else { s with sk0 := if n.val = 0 then v else s.sk0, sk1 := if n.val = 1 then v else s.sk1,
                  sk2 := if n.val = 2 then v else s.sk2, skv := false }

/-- R58: a write to DIN. -/
def Obligations.DinWrite : Prop :=
  ∀ s v, busWrite 4 v s =
    if s.pending.isSome then { s with err := true, errcode := if s.err then s.errcode else 4 }
    else { s with din := v }

/-- R60 and R62: a write to DOUT, or to a reserved index, changes nothing and raises no error, whatever BUSY is. -/
def Obligations.IgnoredWrites : Prop :=
  ∀ s v (idx : BitVec 4), idx.toNat = 5 ∨ 8 ≤ idx.toNat → busWrite idx v s = s

/-- R61: a write to STATUS clears ERR and ERRCODE when bit 2 is set, and does nothing else, whatever BUSY is. -/
def Obligations.StatusWrite : Prop :=
  ∀ s v, busWrite 6 v s = if v.toNat / 4 % 2 = 1 then { s with err := false, errcode := 0 } else s

/-- R59, R84, R85: a write to CMD: overrun (3) while BUSY whatever the word; else refused with the code its decoding gives
and DONE set, nothing else changing; else accepted, with DONE cleared (R86). -/
def Obligations.CmdWrite : Prop :=
  (∀ s w, busWrite 7 w s =
    if s.pending.isSome then { s with err := true, errcode := if s.err then s.errcode else 3 }
    else
      match decode w with
      | .illegal c => { s with err := true, errcode := if s.err then s.errcode else causeCode c, done := true }
      | .legal op sel => { s with pending := some (op, sel), done := false })
  ∧ causeCode .illegalOpcode = 1 ∧ causeCode .reservedField = 2

/-- From R65: an access that is not one whole aligned 32-bit word is refused, by the model's names for it (log entry 7). -/
def Obligations.UnalignedOrNarrowRefused : Prop :=
  ∀ s r, HostMoves s (.request r) →
    (r.size ≠ 4 → step s = .refused .accessWidth)
    ∧ (r.size = 4 → r.addr % 4 ≠ 0 → step s = .refused .accessMisaligned)

/-- From R50: word `idx` of the window sits at BASE_ADDR + 4*idx, and BASE_ADDR is a multiple of 64: an aligned 32-bit load
or store there is the bus access of that index. -/
def Obligations.WindowAddresses : Prop :=
  Config.baseAddr % 64 = 0
  ∧ ∀ s (idx : BitVec 4) d,
    (HostMoves s (.request ⟨.load, Config.baseAddr + 4 * idx.toNat, 4, d⟩) →
      step s = .next (busAccess (.read idx) { s with program := s.program.tail, turns := s.turns.tail }))
    ∧ (HostMoves s (.request ⟨.store, Config.baseAddr + 4 * idx.toNat, 4, d⟩) →
      step s = .next (busAccess (.write idx d) { s with program := s.program.tail, turns := s.turns.tail }))

/-- From R74 and R54: while a command is pending, no access of the host changes a register a command reads, DOUT, SKV, DONE
or PENDING. -/
def Obligations.BusyFreezesRegisters : Prop :=
  ∀ s t, s.pending ≠ none → mover s = .host → step s = .next t → SameButError s t

/-! ## Decoding -/

/-- R94: the 23 legal command words, written out from the table, decode to the commands they stand for. -/
def Obligations.SpecWordsDecode : Prop :=
  [0x00, 0x01, 0x02, 0x03, 0x0F].map (decodeTableWord 32)
      = [some .nop, some .derive, some .encrypt, some .decrypt, some .zeroize]
  ∧ [0x04, 0x14, 0x24, 0x05, 0x15, 0x25].map (decodeTableWord 32)
      = [some .subSk0, some .subSk1, some .subSk2, some .subinvSk0, some .subinvSk1, some .subinvSk2]
  ∧ [0x06, 0x16, 0x26, 0x07, 0x17, 0x27].map (decodeTableWord 32)
      = [some .permSk0, some .permSk1, some .permSk2, some .perminvSk0, some .perminvSk1, some .perminvSk2]
  ∧ [0x08, 0x18, 0x28, 0x09, 0x19, 0x29].map (decodeTableWord 32)
      = [some .roundSk0, some .roundSk1, some .roundSk2, some .roundinvSk0, some .roundinvSk1, some .roundinvSk2]

/-- R83: `decode` on every word, its fields cut as R80 does, by arithmetic, the first case that applies taken; and exactly
23 words are legal. -/
def Obligations.DecodeOrder : Prop :=
  (∀ w : Word,
    let op := w.toNat % 16
    let sel := w.toNat / 16 % 4
    let rsv := w.toNat / 64
    decode w =
      if 10 ≤ op ∧ op ≤ 14 then .illegal .illegalOpcode
      else if rsv ≠ 0 then .illegal .reservedField
      else if 4 ≤ op ∧ op ≤ 9 ∧ sel = 3 then .illegal .reservedField
      else if (op ≤ 3 ∨ op = 15) ∧ sel ≠ 0 then .illegal .reservedField
      else .legal (BitVec.ofNat 4 op) (BitVec.ofNat 2 sel))
  ∧ ∃ legal : List Word, legal.Nodup ∧ legal.length = 23
    ∧ ∀ w, w ∈ legal ↔ ∃ op sel, decode w = .legal op sel

/-- Decoding and encoding agree, over all words: a word stands for a command exactly when it is that command's encoding,
and the words that decode to a legal pair are the encodings and no other (R83, R94). -/
def Obligations.DecodeIffEncode : Prop :=
  (∀ w i, decodeInstr w = some i ↔ w = encode i)
  ∧ (∀ w, (∃ op sel, decode w = .legal op sel) ↔ ∃ i, w = encode i)

/-! ## The life of a command -/

/-- A step of the engine runs the pending command: PENDING holds the opcode and selector of a word that decodes to `i`,
and the step is `exec i` on the state with the engine's turn used up (R87, R88). -/
def Obligations.EngineRunsPending : Prop :=
  ∀ s w i, decodeInstr w = some i →
    s.pending = some (w.extractLsb' 0 4, w.extractLsb' 4 2) → mover s = .engine →
    step s = exec i { s with turns := s.turns.tail }

/-- From R84, R86, R87: a command written to CMD while none is pending is accepted, and the engine's next turn runs it. -/
def Obligations.WrittenCommandRuns : Prop :=
  ∀ s w i ts, decodeInstr w = some i → HostMoves s (.bus (.write 7 w)) → s.pending = none →
    s.turns = .host :: .engine :: ts →
    ∃ a, step s = .next a ∧ a.pending = some (w.extractLsb' 0 4, w.extractLsb' 4 2) ∧ a.done = false
      ∧ (a.key, a.sk0, a.sk1, a.sk2, a.din, a.dout, a.err, a.errcode, a.skv, a.reads)
        = (s.key, s.sk0, s.sk1, s.sk2, s.din, s.dout, s.err, s.errcode, s.skv, s.reads)
      ∧ step a = exec i { a with turns := ts }

/-- The model's placement of a word (log entry 4): the next step runs the command it decodes to. -/
def Obligations.PlacedWordRuns : Prop :=
  ∀ (s : State) (w : Word) i, decodeInstr w = some i →
    step (s.withFetchWord 32 w.toNat)
      = exec i { s with pending := some (w.extractLsb' 0 4, w.extractLsb' 4 2), done := false }

/-- From R267 and R88: where PENDING is none or legal, a step answers a next state, except that the host's step refuses a
byte request the interface cannot carry; a PENDING pair that is no command faults at the engine's step. -/
def Obligations.OnlyNamedStops : Prop :=
  (∀ s, PendingLegal s → (∃ t, step s = .next t)
    ∨ (∃ r e, HostMoves s (.request r) ∧ bridge Config.baseAddr r = .error e ∧ step s = .refused e))
  ∧ (∀ s op sel, s.pending = some (op, sel) → ¬ CmdFields.WellFormed ⟨op, sel, 0⟩ → mover s = .engine →
    step s = .fault .illegalPending)

/-- From R71, R93 and R301: the `wait` loop of a host whose command completes after `n` polls: the host leaves the loop, its
`n` polls read BUSY = 1 and the last reads BUSY = 0, and no command is pending. -/
def Obligations.WaitEndsWithBusyClear : Prop :=
  ∀ s n rest ts, PendingLegal s → s.pending ≠ none → s.program = .wait :: rest →
    s.turns = List.replicate n .host ++ .engine :: .host :: ts →
    ∃ t polls v, run (n + 2) s = .next t ∧ t.program = rest ∧ t.turns = ts ∧ t.pending = none
      ∧ t.reads = s.reads ++ polls ++ [v] ∧ polls.length = n
      ∧ (∀ p ∈ polls, p.getLsbD 0 = true) ∧ v.getLsbD 0 = false

/-! ## The subkey scheduler -/

/-- R102: DERIVE completes; the bits of SK0, SK1, SK2 from those of KEY; SKV set; nothing else changes but PENDING and
DONE. -/
def Obligations.DeriveResult : Prop :=
  ∀ s, ∃ t, exec .derive s = .next t
    ∧ (∀ j < 32, t.sk0.getLsbD j = (s.key.getLsbD ((j + 31) % 32) ^^ s.key.getLsbD ((j + 29) % 32))
      ∧ t.sk1.getLsbD j = (s.key.getLsbD ((j + 30) % 32) ^^ s.key.getLsbD ((j + 26) % 32))
      ∧ t.sk2.getLsbD j = (s.key.getLsbD ((j + 29) % 32) ^^ s.key.getLsbD ((j + 23) % 32)))
    ∧ t = { s with sk0 := t.sk0, sk1 := t.sk1, sk2 := t.sk2, skv := true, pending := none, done := true }

/-- R100: `rotate_left_32`, bit by bit, for every n in 1..31. -/
def Obligations.RotateBits : Prop :=
  ∀ (x : Word) n j, 1 ≤ n → n ≤ 31 → j < 32 →
    (rotateLeft32 x n).getLsbD j = x.getLsbD ((j + 32 - n) % 32)

/-- From R103: the keys whose three subkeys are all zero are exactly four, and two keys have the same subkeys exactly
when they differ by one of those four. -/
def Obligations.ScheduleKernel : Prop :=
  (∀ k, deriveSubkeys k = ⟨0, 0, 0⟩ ↔ k = 0x00000000 ∨ k = 0x55555555 ∨ k = 0xAAAAAAAA ∨ k = 0xFFFFFFFF)
  ∧ (∀ k k', deriveSubkeys k = deriveSubkeys k' ↔
      k ^^^ k' = 0x00000000 ∨ k ^^^ k' = 0x55555555 ∨ k ^^^ k' = 0xAAAAAAAA ∨ k ^^^ k' = 0xFFFFFFFF)

/-- From R103: the schedule is linear, and keys that differ in one bit give subkeys that differ in exactly two bits. -/
def Obligations.ScheduleLinearAndAvalanche : Prop :=
  (∀ a b i, i < 3 → subkey (a ^^^ b) i = subkey a i ^^^ subkey b i)
  ∧ (∀ k b i, b < 32 → i < 3 → setBits (subkey (k ^^^ (1#32 <<< b)) i ^^^ subkey k i) = 2)

/-! ## Substitution -/

/-- R121 (with R120): the S-box is the sum mod 256, its inverse the non-negative difference, and each undoes the other. -/
def Obligations.SboxPair : Prop :=
  ∀ b kb : Byte, (sbox b kb).toNat = (b.toNat + kb.toNat) % 256
    ∧ ((sboxInv b kb).toNat : Int) = ((b.toNat : Int) - kb.toNat) % 256
    ∧ sboxInv (sbox b kb) kb = b ∧ sbox (sboxInv b kb) kb = b

/-- R122: SUB under each subkey completes, each lane of DOUT the sum of the lanes mod 256, and nothing else changes but
PENDING and DONE. -/
def Obligations.SubResult : Prop :=
  ∀ s,
    (∃ t, exec .subSk0 s = .next t ∧ IsSubstituted s.din s.sk0 t.dout ∧ OnlyDout s t)
    ∧ (∃ t, exec .subSk1 s = .next t ∧ IsSubstituted s.din s.sk1 t.dout ∧ OnlyDout s t)
    ∧ (∃ t, exec .subSk2 s = .next t ∧ IsSubstituted s.din s.sk2 t.dout ∧ OnlyDout s t)

/-- From R123: SUBINV under each subkey completes, each lane of DOUT the difference mod 256, and nothing else changes but
PENDING and DONE. -/
def Obligations.SubinvResult : Prop :=
  ∀ s,
    (∃ t, exec .subinvSk0 s = .next t ∧ IsUnsubstituted s.din s.sk0 t.dout ∧ OnlyDout s t)
    ∧ (∃ t, exec .subinvSk1 s = .next t ∧ IsUnsubstituted s.din s.sk1 t.dout ∧ OnlyDout s t)
    ∧ (∃ t, exec .subinvSk2 s = .next t ∧ IsUnsubstituted s.din s.sk2 t.dout ∧ OnlyDout s t)

/-- R124: substitution is undone, the zero subkey is the identity, no carry leaves a lane, and two substitutions are one
under the lane sums. -/
def Obligations.SubstitutionLaws : Prop :=
  (∀ x sk, substituteInv (substitute x sk) sk = x)
  ∧ (∀ x, substitute x 0 = x)
  ∧ substitute 0x000000FF 0x00000001 = 0x00000000
  ∧ (∀ x a b c, IsSubstituted a b c → substitute (substitute x a) b = substitute x c)

/-! ## Permutation -/

/-- R142: for odd m, `inv_multiplier(m)` is the one v of 1..31 with (m * v) mod 32 = 1, and its values for m = 1, 3, ..., 31
are those of the table. -/
def Obligations.InverseMultiplierTable : Prop :=
  (∀ m < 32, m % 2 = 1 → ∀ v < 32, (m * v % 32 = 1 ↔ v = invMultiplier m))
  ∧ (List.range 16).map (fun k => invMultiplier (2 * k + 1))
      = [1, 11, 13, 23, 25, 3, 5, 15, 17, 27, 29, 7, 9, 19, 21, 31]

/-- R141: PERM under each subkey completes, bit i of DIN at position (m*i + a) mod 32 of DOUT, and nothing else
changes but PENDING and DONE. -/
def Obligations.PermResult : Prop :=
  ∀ s,
    (∃ t, exec .permSk0 s = .next t ∧ IsPermuted s.din s.sk0 t.dout ∧ OnlyDout s t)
    ∧ (∃ t, exec .permSk1 s = .next t ∧ IsPermuted s.din s.sk1 t.dout ∧ OnlyDout s t)
    ∧ (∃ t, exec .permSk2 s = .next t ∧ IsPermuted s.din s.sk2 t.dout ∧ OnlyDout s t)

/-- R143: PERMINV under each subkey completes, bit j of DIN at position (v*(j - a)) mod 32 of DOUT, and nothing else
changes but PENDING and DONE. -/
def Obligations.PerminvResult : Prop :=
  ∀ s,
    (∃ t, exec .perminvSk0 s = .next t ∧ IsUnpermuted s.din s.sk0 t.dout ∧ OnlyDout s t)
    ∧ (∃ t, exec .perminvSk1 s = .next t ∧ IsUnpermuted s.din s.sk1 t.dout ∧ OnlyDout s t)
    ∧ (∃ t, exec .perminvSk2 s = .next t ∧ IsUnpermuted s.din s.sk2 t.dout ∧ OnlyDout s t)

/-- From R144: permutation and its inverse undo each other both ways. -/
def Obligations.PermutationBijective : Prop :=
  ∀ x sk, permuteInv (permute x sk) sk = x ∧ permute (permuteInv x sk) sk = x

/-- From R144: permutation keeps the number of set bits, and with multiplier 1 it is the rotation by the addend. -/
def Obligations.PermutationCountAndRotation : Prop :=
  (∀ x sk, setBits (permute x sk) = setBits x)
  ∧ (∀ x sk, multOf sk = 1 → addOf sk ≠ 0 → permute x sk = rotateLeft32 x (addOf sk))
  ∧ (∀ x sk, multOf sk = 1 → addOf sk = 0 → permute x sk = x)

/-! ## Rounds and blocks -/

/-- R170: ROUND under each subkey completes, DOUT the permutation of the substitution of DIN, and nothing else changes but
PENDING and DONE. -/
def Obligations.RoundResult : Prop :=
  ∀ s,
    (∃ t, exec .roundSk0 s = .next t ∧ IsRound s.din s.sk0 t.dout ∧ OnlyDout s t)
    ∧ (∃ t, exec .roundSk1 s = .next t ∧ IsRound s.din s.sk1 t.dout ∧ OnlyDout s t)
    ∧ (∃ t, exec .roundSk2 s = .next t ∧ IsRound s.din s.sk2 t.dout ∧ OnlyDout s t)

/-- R171: ROUNDINV under each subkey completes, DOUT the inverse substitution of the inverse permutation of DIN, and nothing
else changes but PENDING and DONE; and a round and its inverse undo each other both ways. -/
def Obligations.RoundinvResult : Prop :=
  (∀ s,
    (∃ t, exec .roundinvSk0 s = .next t ∧ IsUnround s.din s.sk0 t.dout ∧ OnlyDout s t)
    ∧ (∃ t, exec .roundinvSk1 s = .next t ∧ IsUnround s.din s.sk1 t.dout ∧ OnlyDout s t)
    ∧ (∃ t, exec .roundinvSk2 s = .next t ∧ IsUnround s.din s.sk2 t.dout ∧ OnlyDout s t))
  ∧ (∀ x sk, roundDec (roundEnc x sk) sk = x ∧ roundEnc (roundDec x sk) sk = x)

/-- R190: ENCRYPT completes, DOUT three rounds of DIN under SK0, SK1, SK2 in that order, and nothing else changes but
PENDING and DONE. -/
def Obligations.EncryptResult : Prop :=
  ∀ s, ∃ t, exec .encrypt s = .next t ∧ IsEncrypted s.din s.sk0 s.sk1 s.sk2 t.dout ∧ OnlyDout s t

/-- R191: DECRYPT completes, DOUT three inverse rounds of DIN under SK2, SK1, SK0 in that order, and nothing else changes
but PENDING and DONE. -/
def Obligations.DecryptResult : Prop :=
  ∀ s, ∃ t, exec .decrypt s = .next t ∧ IsDecrypted s.din s.sk0 s.sk1 s.sk2 t.dout ∧ OnlyDout s t

/-- R195: the round trip, both ways, for every block and every subkey triple, those of a key among them; and the rule's
example of a triple in the wrong order. -/
def Obligations.BlockRoundTrip : Prop :=
  (∀ x sk, decryptBlock (encryptBlock x sk) sk = x ∧ encryptBlock (decryptBlock x sk) sk = x)
  ∧ (∀ x k, decryptBlock (encryptBlock x (deriveSubkeys k)) (deriveSubkeys k) = x)
  ∧ encryptBlock 0x12345678 (deriveSubkeys 0x1A2B3C4D) = 0x6D3F743F
  ∧ decryptBlock 0x6D3F743F ⟨(deriveSubkeys 0x1A2B3C4D).k2, (deriveSubkeys 0x1A2B3C4D).k1, (deriveSubkeys 0x1A2B3C4D).k0⟩
      = 0x57BE54C5

/-- ENCRYPT as a map of DIN to DOUT (R190, R192, R193, R195): from every state it completes, and the block it leaves in DOUT is
the one block the relation of R190 allows; and from two states with the same subkeys, whatever else they hold, the two
ciphertexts are equal exactly when the two plaintexts are; so too for DECRYPT. -/
def Obligations.EncryptInjective : Prop :=
  (∀ s, ∃ t, exec .encrypt s = .next t ∧ ∀ y, IsEncrypted s.din s.sk0 s.sk1 s.sk2 y ↔ y = t.dout)
  ∧ (∀ s s', s.sk0 = s'.sk0 → s.sk1 = s'.sk1 → s.sk2 = s'.sk2 →
      (∃ t t', exec .encrypt s = .next t ∧ exec .encrypt s' = .next t' ∧ (t.dout = t'.dout ↔ s.din = s'.din))
      ∧ (∃ t t', exec .decrypt s = .next t ∧ exec .decrypt s' = .next t' ∧ (t.dout = t'.dout ↔ s.din = s'.din)))

/-- On the registers (R192, R193, R195, R304): from every state, ENCRYPT, then DOUT copied to DIN, then DECRYPT, leaves in
DOUT the block DIN first held, and KEY, SK0-SK2, SKV, ERR and ERRCODE as they were. -/
def Obligations.EncryptThenDecryptRestores : Prop :=
  ∀ s, ∃ t u, exec .encrypt s = .next t ∧ exec .decrypt { t with din := t.dout } = .next u
    ∧ u = { s with din := t.dout, dout := s.din, pending := none, done := true }

/-- R194: under three zero subkeys encryption and decryption are the identity; reset and DERIVE of each of the four keys
give zero subkeys. -/
def Obligations.ZeroSubkeysIdentity : Prop :=
  (∀ x, encryptBlock x ⟨0, 0, 0⟩ = x ∧ decryptBlock x ⟨0, 0, 0⟩ = x)
  ∧ subkeys State.reset = ⟨0, 0, 0⟩
  ∧ (∀ s, s.key = 0x00000000 ∨ s.key = 0x55555555 ∨ s.key = 0xAAAAAAAA ∨ s.key = 0xFFFFFFFF →
      ∃ t, exec .derive s = .next t ∧ subkeys t = ⟨0, 0, 0⟩)

/-! ## Control, errors, whole-machine rules -/

/-- From R210: NOP completes; only PENDING and DONE change. -/
def Obligations.NopResult : Prop :=
  ∀ s, exec .nop s = .next { s with pending := none, done := true }

/-- From R211: ZEROIZE completes; every key and data register and SKV are cleared, ERR and ERRCODE are kept. -/
def Obligations.ZeroizeResult : Prop :=
  ∀ s, exec .zeroize s = .next { s with key := 0, sk0 := 0, sk1 := 0, sk2 := 0, din := 0, dout := 0, skv := false,
                                        pending := none, done := true }

/-- From R290: reset sets every piece of the core's state to its reset value and discards the pending command, in one step
from any state; the host's program and read log stand (log entry 9). -/
def Obligations.ResetTurn : Prop :=
  ∀ s, mover s = .reset →
    step s = .next { State.reset with program := s.program, turns := s.turns.tail, reads := s.reads }

/-- From R262: over any step but a reset, an ERRCODE recorded stands while ERR stays set; ERR is set only with a code of 1 to 4. -/
def Obligations.FirstErrorKept : Prop :=
  ∀ s t, step s = .next t → mover s ≠ .reset →
    (s.err = true → t.err = true → t.errcode = s.errcode)
    ∧ (s.err = false → t.err = true → 1 ≤ t.errcode.toNat ∧ t.errcode.toNat ≤ 4)

/-- From R265: only a host write of STATUS with bit 2 set, or reset, clears ERR, and it clears ERRCODE with it; no command does. -/
def Obligations.ErrClearedOnlyBy : Prop :=
  ∀ s t, step s = .next t → s.err = true → t.err = false →
    t.errcode = 0 ∧ (mover s = .reset ∨ ∃ v : Word, HostAccesses s (.write 6 v) ∧ v.getLsbD 2 = true)

/-- From R30: SKV is set only by DERIVE completing; and it is cleared by every accepted write to KEY or a subkey, by ZEROIZE
completing and by reset, and by nothing else. -/
def Obligations.SkvWriters : Prop :=
  ∀ s t, step s = .next t →
    (t.skv = true → s.skv = true ∨ Completes s .derive)
    ∧ (Completes s .derive → t.skv = true)
    ∧ (s.skv = true → (t.skv = false ↔
        mover s = .reset ∨ Completes s .zeroize
        ∨ ∃ (idx : BitVec 4) (v : Word), idx.toNat ≤ 3 ∧ s.pending = none ∧ HostAccesses s (.write idx v)))

/-- From R24 and R211: DIN changes only by an accepted host write of DIN, by ZEROIZE completing, or by reset (log entry 12). -/
def Obligations.DinWriters : Prop :=
  ∀ s t, step s = .next t → t.din ≠ s.din →
    mover s = .reset ∨ Completes s .zeroize
    ∨ ∃ v : Word, s.pending = none ∧ HostAccesses s (.write 4 v) ∧ t.din = v

/-- From R25: DOUT changes only when a command completes, and then not by NOP or DERIVE, or by reset: no host access writes it. -/
def Obligations.DoutWriters : Prop :=
  ∀ s t, step s = .next t → t.dout ≠ s.dout →
    mover s = .reset ∨ ∃ i, Completes s i ∧ i ≠ .nop ∧ i ≠ .derive

/-! ## The host's codec (outside the hardware) -/

/-- From R231: the ciphertext's length is 4 * ceil(n/4), and each block of it is the encryption of the payload's block under the
subkeys of the key. -/
def Obligations.EncryptBytesLength : Prop :=
  ∀ p k, (encryptBytes p k).length = 4 * ((p.length + 3) / 4)
    ∧ readBlocks (encryptBytes p k) = (readBlocks p).map fun x => encryptBlock x (deriveSubkeys k)

/-- From R232 and R237: a ciphertext whose length is no multiple of 4 is refused, any other decrypts to as many bytes, and
the binary round trip gives the payload padded with zero bytes to the next multiple of 4. -/
def Obligations.BinaryRoundTrip : Prop :=
  (∀ ct k, ct.length % 4 ≠ 0 → decryptBytes ct k = .error .invalidCiphertextLength)
  ∧ (∀ ct k, ct.length % 4 = 0 → ∃ pt, decryptBytes ct k = .ok pt ∧ pt.length = ct.length)
  ∧ (∀ p k, decryptBytes (encryptBytes p k) k = .ok (padded p))
end

