-- ==== Sys2Proof/Laws/Datapath.lean ====
section
/-! SUPPORT. What the datapath's shared functions do, bit by bit and lane by lane. -/

namespace Sys2Proof.Machine

/-! ## Lanes -/

@[simp] theorem lane_be32_3 (b0 b1 b2 b3 : Byte) : lane 3 (be32 b0 b1 b2 b3) = b0 := by
  apply BitVec.eq_of_getLsbD_eq; intro i hi
  have h1 : ¬ 24 + i < 8 := by omega
  have h2 : ¬ 24 + i - 8 < 8 := by omega
  have h3 : ¬ 24 + i - 8 - 8 < 8 := by omega
  have h4 : 24 + i - 8 - 8 - 8 = i := by omega
  simp only [lane, be32, BitVec.getLsbD_extractLsb', BitVec.getLsbD_append]
  simp [hi, h1, h2, h3, h4]

@[simp] theorem lane_be32_2 (b0 b1 b2 b3 : Byte) : lane 2 (be32 b0 b1 b2 b3) = b1 := by
  apply BitVec.eq_of_getLsbD_eq; intro i hi
  have h1 : ¬ 16 + i < 8 := by omega
  have h2 : ¬ 16 + i - 8 < 8 := by omega
  have h3 : 16 + i - 8 - 8 = i := by omega
  simp only [lane, be32, BitVec.getLsbD_extractLsb', BitVec.getLsbD_append]
  simp [hi, h1, h2, h3]

@[simp] theorem lane_be32_1 (b0 b1 b2 b3 : Byte) : lane 1 (be32 b0 b1 b2 b3) = b2 := by
  apply BitVec.eq_of_getLsbD_eq; intro i hi
  have h1 : ¬ 8 + i < 8 := by omega
  have h2 : 8 + i - 8 = i := by omega
  simp only [lane, be32, BitVec.getLsbD_extractLsb', BitVec.getLsbD_append]
  simp [hi, h1, h2]

@[simp] theorem lane_be32_0 (b0 b1 b2 b3 : Byte) : lane 0 (be32 b0 b1 b2 b3) = b3 := by
  apply BitVec.eq_of_getLsbD_eq; intro i hi
  simp only [lane, be32, BitVec.getLsbD_extractLsb', BitVec.getLsbD_append]
  simp [hi]

/-- A word is its four lanes. -/
theorem be32_lanes (w : Word) : be32 (lane 3 w) (lane 2 w) (lane 1 w) (lane 0 w) = w := by
  apply BitVec.eq_of_getLsbD_eq; intro i hi
  simp only [lane, be32, BitVec.getLsbD_append, BitVec.getLsbD_extractLsb']
  split
  · simp_all
  · split
    · have : 8 * 1 + (i - 8) = i := by omega
      simp_all
    · split
      · have : 8 * 2 + (i - 8 - 8) = i := by omega
        simp_all
      · have : 8 * 3 + (i - 8 - 8 - 8) = i := by omega
        have : i - 8 - 8 - 8 < 8 := by omega
        simp_all

/-- A lane as a number. -/
theorem lane_toNat (l : Nat) (w : Word) : (lane l w).toNat = w.toNat / 256 ^ l % 256 := by
  unfold lane
  rw [BitVec.extractLsb'_toNat, Nat.shiftRight_eq_div_pow]
  have : (2 : Nat) ^ (8 * l) = 256 ^ l := by rw [Nat.pow_mul]
  rw [this]

@[simp] theorem lane_mapLanes (f : Byte → Byte → Byte) (x sk : Word) (l : Nat) (h : l < 4) :
    lane l (mapLanes f x sk) = f (lane l x) (lane l sk) := by
  have : l = 0 ∨ l = 1 ∨ l = 2 ∨ l = 3 := by omega
  rcases this with rfl | rfl | rfl | rfl <;> simp [mapLanes]

/-- Two words with equal lanes are equal. -/
theorem eq_of_lanes {x y : Word} (h : ∀ l < 4, lane l x = lane l y) : x = y := by
  rw [← be32_lanes x, ← be32_lanes y, h 3 (by omega), h 2 (by omega), h 1 (by omega), h 0 (by omega)]

/-! ## Rotation -/

/-- `rotate_left_32` takes bit j from bit j - n, mod 32. -/
theorem getLsbD_rotateLeft32_of_le (x : Word) (n j : Nat) (hn : n < 32) (hj : j < 32) (h : n ≤ j) :
    (rotateLeft32 x n).getLsbD j = x.getLsbD (j - n) := by
  have h1 : ¬ j < n := by omega
  have h2 : x.getLsbD (32 - n + j) = false := BitVec.getLsbD_of_ge _ _ (by omega)
  have h3 : j - n < 32 := by omega
  simp [rotateLeft32, hj, h1, h2, h3]

theorem getLsbD_rotateLeft32_of_lt (x : Word) (n j : Nat) (hj : j < 32) (h : j < n) :
    (rotateLeft32 x n).getLsbD j = x.getLsbD (32 - n + j) := by
  simp [rotateLeft32, hj, h]

/-! ## Moving bits -/

theorem getLsbD_moveBits_aux (pos : Nat → Nat) (x : Word) (j : Nat) (l : List Nat) (y : Word) :
    (l.foldl (fun y i => y ||| (((x >>> i) &&& 1#32) <<< pos i)) y).getLsbD j
      = (y.getLsbD j || (decide (j < 32) && l.any fun i => pos i == j && x.getLsbD i)) := by
  induction l generalizing y with
  | nil => simp
  | cons i l ih =>
    rw [List.foldl_cons, ih, List.any_cons]
    have hbit : ((((x >>> i) &&& 1#32) <<< pos i).getLsbD j)
        = (decide (j < 32) && (pos i == j && x.getLsbD i)) := by
      simp only [BitVec.getLsbD_shiftLeft, BitVec.getLsbD_and, BitVec.getLsbD_ushiftRight]
      by_cases hj : j < 32
      · by_cases hlt : j < pos i
        · have : (pos i == j) = false := by simp; omega
          simp [hlt, this]
        · by_cases he : pos i = j
          · subst he; simp [hj]
          · have h0 : (1#32).getLsbD (j - pos i) = false := by
              rw [BitVec.getLsbD_one]; simp; omega
            have : (pos i == j) = false := by simpa using he
            simp [h0, this]
      · simp [hj]
    rw [BitVec.getLsbD_or, hbit]
    cases y.getLsbD j <;> cases decide (j < 32) <;> cases (pos i == j && x.getLsbD i) <;> simp

/-- Bit j after the bits moved: some bit that moved there was set. -/
theorem getLsbD_moveBits (pos : Nat → Nat) (x : Word) (j : Nat) :
    (moveBits pos x).getLsbD j
      = (decide (j < 32) && (List.range 32).any fun i => pos i == j && x.getLsbD i) := by
  unfold moveBits; rw [getLsbD_moveBits_aux]; simp

/-- Where the positions are distinct, bit i of the word stands at `pos i`. -/
theorem getLsbD_moveBits_pos {pos : Nat → Nat} (hlt : ∀ i < 32, pos i < 32)
    (hinj : ∀ i < 32, ∀ k < 32, pos i = pos k → i = k) (x : Word) (i : Nat) (hi : i < 32) :
    (moveBits pos x).getLsbD (pos i) = x.getLsbD i := by
  rw [getLsbD_moveBits, decide_eq_true (hlt i hi), Bool.true_and]
  cases hx : x.getLsbD i
  · rw [List.any_eq_false]
    intro k hk
    by_cases he : pos k = pos i
    · rw [hinj k (List.mem_range.1 hk) i hi he, hx]; simp
    · simp [he]
  · rw [List.any_eq_true]
    exact ⟨i, List.mem_range.2 hi, by simp [hx]⟩

/-! ## The permutation's parameters and positions -/

theorem multiplier_eq (sk : Word) : multiplier sk = 2 * (sk.toNat / 2 % 16) + 1 := by
  have key : ∀ n, n < 32 → (n ||| 1) = 2 * (n / 2) + 1 := by decide
  unfold multiplier
  rw [BitVec.toNat_or, BitVec.toNat_and]
  change (sk.toNat &&& 2 ^ 5 - 1) ||| 1 = _
  rw [Nat.and_two_pow_sub_one_eq_mod, key _ (Nat.mod_lt _ (by norm_num))]
  omega

theorem addend_eq (sk : Word) : addend sk = sk.toNat / 32 % 32 := by
  unfold addend
  rw [BitVec.toNat_and, BitVec.toNat_ushiftRight, Nat.shiftRight_eq_div_pow]
  change sk.toNat / 2 ^ 5 &&& 2 ^ 5 - 1 = _
  rw [Nat.and_two_pow_sub_one_eq_mod]; rfl

theorem addend_lt (sk : Word) : addend sk < 32 := by rw [addend_eq]; omega

/-- The table's entry for an odd m is in 1..31 and its inverse mod 32 (R142). -/
theorem invMultiplier_spec (k : Nat) (hk : k < 16) :
    1 ≤ invMultiplier (2 * k + 1) ∧ invMultiplier (2 * k + 1) ≤ 31
      ∧ (2 * k + 1) * invMultiplier (2 * k + 1) % 32 = 1 := by
  revert k; decide

/-- The inverse's position over natural numbers. -/
theorem perminvPos_eq (m a j : Nat) (ha : a < 32) :
    perminvPos m a j = invMultiplier m * (j + 32 - a) % 32 := by
  unfold perminvPos
  have h : ((j : Int) - a) = ((j + 32 - a : Nat) : Int) - 32 := by omega
  rw [h, mul_sub]
  have : ((invMultiplier m : Int) * ((j + 32 - a : Nat) : Int) - (invMultiplier m : Int) * 32) % 32
      = ((invMultiplier m * (j + 32 - a) % 32 : Nat) : Int) := by
    push_cast
    omega
  rw [this]; rfl

/-- The inverse's position undoes the permutation's (R144). -/
theorem perminvPos_permPos (sk : Word) (i : Nat) (hi : i < 32) :
    perminvPos (multiplier sk) (addend sk) (permPos (multiplier sk) (addend sk) i) = i := by
  rw [perminvPos_eq _ _ _ (addend_lt sk), multiplier_eq, permPos]
  obtain ⟨-, -, hv⟩ := invMultiplier_spec (sk.toNat / 2 % 16) (Nat.mod_lt _ (by norm_num))
  generalize 2 * (sk.toNat / 2 % 16) + 1 = m at *
  generalize invMultiplier m = v at *
  have ha := addend_lt sk
  generalize addend sk = a at *
  have h1 : (m * i + a) % 32 + 32 - a ≡ m * i [MOD 32] := by unfold Nat.ModEq; omega
  have h2 : v * ((m * i + a) % 32 + 32 - a) ≡ i [MOD 32] :=
    (h1.mul_left v).trans (by
      have : m * v ≡ 1 [MOD 32] := hv
      calc v * (m * i) = (m * v) * i := by ring
        _ ≡ 1 * i [MOD 32] := this.mul_right i
        _ = i := one_mul i)
  unfold Nat.ModEq at h2
  omega

/-- The permutation's position undoes the inverse's (R144). -/
theorem permPos_perminvPos (sk : Word) (j : Nat) (hj : j < 32) :
    permPos (multiplier sk) (addend sk) (perminvPos (multiplier sk) (addend sk) j) = j := by
  rw [perminvPos_eq _ _ _ (addend_lt sk), multiplier_eq, permPos]
  obtain ⟨-, -, hv⟩ := invMultiplier_spec (sk.toNat / 2 % 16) (Nat.mod_lt _ (by norm_num))
  generalize 2 * (sk.toNat / 2 % 16) + 1 = m at *
  generalize invMultiplier m = v at *
  have ha := addend_lt sk
  generalize addend sk = a at *
  have h2 : m * (v * (j + 32 - a) % 32) + a ≡ j [MOD 32] := by
    have h3 : m * (v * (j + 32 - a) % 32) ≡ (m * v) * (j + 32 - a) [MOD 32] := by
      have : v * (j + 32 - a) % 32 ≡ v * (j + 32 - a) [MOD 32] := Nat.mod_modEq _ _
      calc m * (v * (j + 32 - a) % 32) ≡ m * (v * (j + 32 - a)) [MOD 32] := this.mul_left m
        _ = (m * v) * (j + 32 - a) := by ring
    have h4 : (m * v) * (j + 32 - a) ≡ 1 * (j + 32 - a) [MOD 32] :=
      (show m * v ≡ 1 [MOD 32] from hv).mul_right _
    have h5 := (h3.trans h4).add_right a
    refine h5.trans ?_
    unfold Nat.ModEq; omega
  unfold Nat.ModEq at h2
  omega

theorem permPos_lt (m a i : Nat) : permPos m a i < 32 := Nat.mod_lt _ (by norm_num)

theorem perminvPos_lt (sk : Word) (j : Nat) : perminvPos (multiplier sk) (addend sk) j < 32 := by
  rw [perminvPos_eq _ _ _ (addend_lt sk)]; exact Nat.mod_lt _ (by norm_num)

/-- Bit i of x stands at the permuted position of `permute x sk` (R141). -/
theorem getLsbD_permute (x sk : Word) (i : Nat) (hi : i < 32) :
    (permute x sk).getLsbD (permPos (multiplier sk) (addend sk) i) = x.getLsbD i := by
  refine getLsbD_moveBits_pos (fun i _ => permPos_lt _ _ i) ?_ x i hi
  intro a ha b hb h
  rw [← perminvPos_permPos sk a ha, ← perminvPos_permPos sk b hb, h]

/-- Bit j of y stands at the inverse position of `permuteInv y sk` (R143). -/
theorem getLsbD_permuteInv (y sk : Word) (j : Nat) (hj : j < 32) :
    (permuteInv y sk).getLsbD (perminvPos (multiplier sk) (addend sk) j) = y.getLsbD j := by
  refine getLsbD_moveBits_pos (fun i _ => perminvPos_lt sk i) ?_ y j hj
  intro a ha b hb h
  rw [← permPos_perminvPos sk a ha, ← permPos_perminvPos sk b hb, h]

end Sys2Proof.Machine
end

