-- ==== Sys2Proof/Laws/Decode.lean ====
section
/-! SUPPORT. What decoding a word answers, said once. -/

namespace Sys2Proof

/-- Cutting a word into its fields loses nothing. -/
theorem wordOf_fieldsOf (w : Word) : wordOf (fieldsOf w) = w := by
  apply BitVec.eq_of_getLsbD_eq
  intro i hi
  simp only [wordOf, fieldsOf, BitVec.getLsbD_append, BitVec.getLsbD_extractLsb']
  split
  · simp_all
  · split
    · have : 4 + (i - 4) = i := by omega
      simp_all
    · have : 6 + (i - 4 - 2) = i := by omega
      have : i - 4 - 2 < 26 := by omega
      simp_all

/-- A pair stands for a command exactly when it is that command's opcode and selector. -/
theorem pairInstr_eq_some (op : BitVec 4) (sel : BitVec 2) (i : Instr) :
    pairInstr op sel = some i ↔ op = instrOp i ∧ sel = instrSel i := by
  revert op sel
  cases i <;> decide

/-- A pair stands for some command exactly when it is well formed. -/
theorem pairInstr_isSome (op : BitVec 4) (sel : BitVec 2) :
    (pairInstr op sel).isSome = true ↔ CmdFields.WellFormed ⟨op, sel, 0⟩ := by
  revert op sel
  decide

/-- The checks of `decode` on the two small fields are those of well-formedness. -/
theorem selector_checks (op : BitVec 4) (sel : BitVec 2) (h : opReserved op = false) :
    CmdFields.WellFormed ⟨op, sel, 0⟩ ↔
      (opUsesSel op && sel == 3) = false ∧ (!opUsesSel op && sel != 0) = false := by
  revert op sel
  decide

theorem not_wellFormed_of_opReserved {op : BitVec 4} {sel : BitVec 2} (h : opReserved op = true) :
    ¬ CmdFields.WellFormed ⟨op, sel, 0⟩ := by
  revert op sel
  decide

/-- When a word is legal, and as which pair. -/
theorem decode_eq_legal (w : Word) (op : BitVec 4) (sel : BitVec 2) :
    decode w = .legal op sel ↔
      op = (fieldsOf w).op ∧ sel = (fieldsOf w).sel ∧ (fieldsOf w).rsv = 0
        ∧ CmdFields.WellFormed ⟨op, sel, 0⟩ := by
  generalize hf : fieldsOf w = f
  simp only [decode, hf]
  split_ifs with h1 h2 h3 h4
  · refine ⟨fun h => (by cases h), ?_⟩
    rintro ⟨rfl, rfl, -, h⟩
    exact absurd h (not_wellFormed_of_opReserved h1)
  · refine ⟨fun h => (by cases h), ?_⟩
    rintro ⟨-, -, h, -⟩
    exact absurd h h2
  · refine ⟨fun h => (by cases h), ?_⟩
    rintro ⟨rfl, rfl, -, h⟩
    have := ((selector_checks _ _ (Bool.not_eq_true _ ▸ h1)).1 h).1
    rw [h3] at this; cases this
  · refine ⟨fun h => (by cases h), ?_⟩
    rintro ⟨rfl, rfl, -, h⟩
    have := ((selector_checks _ _ (Bool.not_eq_true _ ▸ h1)).1 h).2
    rw [h4] at this; cases this
  · have hw := (selector_checks f.op f.sel (Bool.not_eq_true _ ▸ h1)).2
      ⟨Bool.not_eq_true _ ▸ h3, Bool.not_eq_true _ ▸ h4⟩
    constructor
    · intro h
      obtain ⟨rfl, rfl⟩ := Decoded.legal.inj h
      exact ⟨rfl, rfl, not_not.1 h2, hw⟩
    · rintro ⟨rfl, rfl, -, -⟩; rfl

/-- When a word stands for a command: its pair does, and its reserved field is zero. -/
theorem decodeInstr_eq_some (w : Word) (i : Instr) :
    decodeInstr w = some i ↔
      decode w = .legal (instrOp i) (instrSel i) := by
  unfold decodeInstr
  cases h : decode w with
  | legal op sel =>
    simp only [pairInstr_eq_some, Decoded.legal.injEq]
  | illegal c => simp

/-- A word that stands for a command holds its opcode and selector. -/
theorem fields_of_decodeInstr {w : Word} {i : Instr} (h : decodeInstr w = some i) :
    (fieldsOf w).op = instrOp i ∧ (fieldsOf w).sel = instrSel i ∧ (fieldsOf w).rsv = 0 := by
  rw [decodeInstr_eq_some, decode_eq_legal] at h
  exact ⟨h.1.symm, h.2.1.symm, h.2.2.1⟩

end Sys2Proof
end

