-- ==== Sys2Proof/Laws/State.lean ====
section
/-! SUPPORT. What each named operation does to each field of the state: one lemma per field and operation, so that no
later proof unfolds a record update. -/

namespace Sys2Proof.Machine

@[simp] theorem accept_key (op : BitVec 4) (sel : BitVec 2) (s : State) : (accept op sel s).key = s.key := rfl
@[simp] theorem accept_sk0 (op : BitVec 4) (sel : BitVec 2) (s : State) : (accept op sel s).sk0 = s.sk0 := rfl
@[simp] theorem accept_sk1 (op : BitVec 4) (sel : BitVec 2) (s : State) : (accept op sel s).sk1 = s.sk1 := rfl
@[simp] theorem accept_sk2 (op : BitVec 4) (sel : BitVec 2) (s : State) : (accept op sel s).sk2 = s.sk2 := rfl
@[simp] theorem accept_din (op : BitVec 4) (sel : BitVec 2) (s : State) : (accept op sel s).din = s.din := rfl
@[simp] theorem accept_dout (op : BitVec 4) (sel : BitVec 2) (s : State) : (accept op sel s).dout = s.dout := rfl
@[simp] theorem accept_done (op : BitVec 4) (sel : BitVec 2) (s : State) : (accept op sel s).done = false := rfl
@[simp] theorem accept_err (op : BitVec 4) (sel : BitVec 2) (s : State) : (accept op sel s).err = s.err := rfl
@[simp] theorem accept_errcode (op : BitVec 4) (sel : BitVec 2) (s : State) : (accept op sel s).errcode = s.errcode := rfl
@[simp] theorem accept_skv (op : BitVec 4) (sel : BitVec 2) (s : State) : (accept op sel s).skv = s.skv := rfl
@[simp] theorem accept_pending (op : BitVec 4) (sel : BitVec 2) (s : State) : (accept op sel s).pending = some (op, sel) := rfl
@[simp] theorem accept_program (op : BitVec 4) (sel : BitVec 2) (s : State) : (accept op sel s).program = s.program := rfl
@[simp] theorem accept_turns (op : BitVec 4) (sel : BitVec 2) (s : State) : (accept op sel s).turns = s.turns := rfl
@[simp] theorem accept_reads (op : BitVec 4) (sel : BitVec 2) (s : State) : (accept op sel s).reads = s.reads := rfl

@[simp] theorem finish_key (s : State) : (finish s).key = s.key := rfl
@[simp] theorem finish_sk0 (s : State) : (finish s).sk0 = s.sk0 := rfl
@[simp] theorem finish_sk1 (s : State) : (finish s).sk1 = s.sk1 := rfl
@[simp] theorem finish_sk2 (s : State) : (finish s).sk2 = s.sk2 := rfl
@[simp] theorem finish_din (s : State) : (finish s).din = s.din := rfl
@[simp] theorem finish_dout (s : State) : (finish s).dout = s.dout := rfl
@[simp] theorem finish_done (s : State) : (finish s).done = true := rfl
@[simp] theorem finish_err (s : State) : (finish s).err = s.err := rfl
@[simp] theorem finish_errcode (s : State) : (finish s).errcode = s.errcode := rfl
@[simp] theorem finish_skv (s : State) : (finish s).skv = s.skv := rfl
@[simp] theorem finish_pending (s : State) : (finish s).pending = none := rfl
@[simp] theorem finish_program (s : State) : (finish s).program = s.program := rfl
@[simp] theorem finish_turns (s : State) : (finish s).turns = s.turns := rfl
@[simp] theorem finish_reads (s : State) : (finish s).reads = s.reads := rfl

@[simp] theorem completeDout_key (v : Word) (s : State) : (completeDout v s).key = s.key := rfl
@[simp] theorem completeDout_sk0 (v : Word) (s : State) : (completeDout v s).sk0 = s.sk0 := rfl
@[simp] theorem completeDout_sk1 (v : Word) (s : State) : (completeDout v s).sk1 = s.sk1 := rfl
@[simp] theorem completeDout_sk2 (v : Word) (s : State) : (completeDout v s).sk2 = s.sk2 := rfl
@[simp] theorem completeDout_din (v : Word) (s : State) : (completeDout v s).din = s.din := rfl
@[simp] theorem completeDout_dout (v : Word) (s : State) : (completeDout v s).dout = v := rfl
@[simp] theorem completeDout_done (v : Word) (s : State) : (completeDout v s).done = true := rfl
@[simp] theorem completeDout_err (v : Word) (s : State) : (completeDout v s).err = s.err := rfl
@[simp] theorem completeDout_errcode (v : Word) (s : State) : (completeDout v s).errcode = s.errcode := rfl
@[simp] theorem completeDout_skv (v : Word) (s : State) : (completeDout v s).skv = s.skv := rfl
@[simp] theorem completeDout_pending (v : Word) (s : State) : (completeDout v s).pending = none := rfl
@[simp] theorem completeDout_program (v : Word) (s : State) : (completeDout v s).program = s.program := rfl
@[simp] theorem completeDout_turns (v : Word) (s : State) : (completeDout v s).turns = s.turns := rfl
@[simp] theorem completeDout_reads (v : Word) (s : State) : (completeDout v s).reads = s.reads := rfl

@[simp] theorem setKey_key (v : Word) (s : State) : (setKey v s).key = v := rfl
@[simp] theorem setKey_sk0 (v : Word) (s : State) : (setKey v s).sk0 = s.sk0 := rfl
@[simp] theorem setKey_sk1 (v : Word) (s : State) : (setKey v s).sk1 = s.sk1 := rfl
@[simp] theorem setKey_sk2 (v : Word) (s : State) : (setKey v s).sk2 = s.sk2 := rfl
@[simp] theorem setKey_din (v : Word) (s : State) : (setKey v s).din = s.din := rfl
@[simp] theorem setKey_dout (v : Word) (s : State) : (setKey v s).dout = s.dout := rfl
@[simp] theorem setKey_done (v : Word) (s : State) : (setKey v s).done = s.done := rfl
@[simp] theorem setKey_err (v : Word) (s : State) : (setKey v s).err = s.err := rfl
@[simp] theorem setKey_errcode (v : Word) (s : State) : (setKey v s).errcode = s.errcode := rfl
@[simp] theorem setKey_skv (v : Word) (s : State) : (setKey v s).skv = false := rfl
@[simp] theorem setKey_pending (v : Word) (s : State) : (setKey v s).pending = s.pending := rfl
@[simp] theorem setKey_program (v : Word) (s : State) : (setKey v s).program = s.program := rfl
@[simp] theorem setKey_turns (v : Word) (s : State) : (setKey v s).turns = s.turns := rfl
@[simp] theorem setKey_reads (v : Word) (s : State) : (setKey v s).reads = s.reads := rfl

@[simp] theorem setSk_key (i : Fin 3) (v : Word) (s : State) : (setSk i v s).key = s.key := rfl
@[simp] theorem setSk_sk0 (i : Fin 3) (v : Word) (s : State) : (setSk i v s).sk0 = (if i = 0 then v else s.sk0) := rfl
@[simp] theorem setSk_sk1 (i : Fin 3) (v : Word) (s : State) : (setSk i v s).sk1 = (if i = 1 then v else s.sk1) := rfl
@[simp] theorem setSk_sk2 (i : Fin 3) (v : Word) (s : State) : (setSk i v s).sk2 = (if i = 2 then v else s.sk2) := rfl
@[simp] theorem setSk_din (i : Fin 3) (v : Word) (s : State) : (setSk i v s).din = s.din := rfl
@[simp] theorem setSk_dout (i : Fin 3) (v : Word) (s : State) : (setSk i v s).dout = s.dout := rfl
@[simp] theorem setSk_done (i : Fin 3) (v : Word) (s : State) : (setSk i v s).done = s.done := rfl
@[simp] theorem setSk_err (i : Fin 3) (v : Word) (s : State) : (setSk i v s).err = s.err := rfl
@[simp] theorem setSk_errcode (i : Fin 3) (v : Word) (s : State) : (setSk i v s).errcode = s.errcode := rfl
@[simp] theorem setSk_skv (i : Fin 3) (v : Word) (s : State) : (setSk i v s).skv = false := rfl
@[simp] theorem setSk_pending (i : Fin 3) (v : Word) (s : State) : (setSk i v s).pending = s.pending := rfl
@[simp] theorem setSk_program (i : Fin 3) (v : Word) (s : State) : (setSk i v s).program = s.program := rfl
@[simp] theorem setSk_turns (i : Fin 3) (v : Word) (s : State) : (setSk i v s).turns = s.turns := rfl
@[simp] theorem setSk_reads (i : Fin 3) (v : Word) (s : State) : (setSk i v s).reads = s.reads := rfl

@[simp] theorem setDin_key (v : Word) (s : State) : (setDin v s).key = s.key := rfl
@[simp] theorem setDin_sk0 (v : Word) (s : State) : (setDin v s).sk0 = s.sk0 := rfl
@[simp] theorem setDin_sk1 (v : Word) (s : State) : (setDin v s).sk1 = s.sk1 := rfl
@[simp] theorem setDin_sk2 (v : Word) (s : State) : (setDin v s).sk2 = s.sk2 := rfl
@[simp] theorem setDin_din (v : Word) (s : State) : (setDin v s).din = v := rfl
@[simp] theorem setDin_dout (v : Word) (s : State) : (setDin v s).dout = s.dout := rfl
@[simp] theorem setDin_done (v : Word) (s : State) : (setDin v s).done = s.done := rfl
@[simp] theorem setDin_err (v : Word) (s : State) : (setDin v s).err = s.err := rfl
@[simp] theorem setDin_errcode (v : Word) (s : State) : (setDin v s).errcode = s.errcode := rfl
@[simp] theorem setDin_skv (v : Word) (s : State) : (setDin v s).skv = s.skv := rfl
@[simp] theorem setDin_pending (v : Word) (s : State) : (setDin v s).pending = s.pending := rfl
@[simp] theorem setDin_program (v : Word) (s : State) : (setDin v s).program = s.program := rfl
@[simp] theorem setDin_turns (v : Word) (s : State) : (setDin v s).turns = s.turns := rfl
@[simp] theorem setDin_reads (v : Word) (s : State) : (setDin v s).reads = s.reads := rfl

@[simp] theorem clearError_key (s : State) : (clearError s).key = s.key := rfl
@[simp] theorem clearError_sk0 (s : State) : (clearError s).sk0 = s.sk0 := rfl
@[simp] theorem clearError_sk1 (s : State) : (clearError s).sk1 = s.sk1 := rfl
@[simp] theorem clearError_sk2 (s : State) : (clearError s).sk2 = s.sk2 := rfl
@[simp] theorem clearError_din (s : State) : (clearError s).din = s.din := rfl
@[simp] theorem clearError_dout (s : State) : (clearError s).dout = s.dout := rfl
@[simp] theorem clearError_done (s : State) : (clearError s).done = s.done := rfl
@[simp] theorem clearError_err (s : State) : (clearError s).err = false := rfl
@[simp] theorem clearError_errcode (s : State) : (clearError s).errcode = 0 := rfl
@[simp] theorem clearError_skv (s : State) : (clearError s).skv = s.skv := rfl
@[simp] theorem clearError_pending (s : State) : (clearError s).pending = s.pending := rfl
@[simp] theorem clearError_program (s : State) : (clearError s).program = s.program := rfl
@[simp] theorem clearError_turns (s : State) : (clearError s).turns = s.turns := rfl
@[simp] theorem clearError_reads (s : State) : (clearError s).reads = s.reads := rfl

@[simp] theorem logRead_key (v : Word) (s : State) : (logRead v s).key = s.key := rfl
@[simp] theorem logRead_sk0 (v : Word) (s : State) : (logRead v s).sk0 = s.sk0 := rfl
@[simp] theorem logRead_sk1 (v : Word) (s : State) : (logRead v s).sk1 = s.sk1 := rfl
@[simp] theorem logRead_sk2 (v : Word) (s : State) : (logRead v s).sk2 = s.sk2 := rfl
@[simp] theorem logRead_din (v : Word) (s : State) : (logRead v s).din = s.din := rfl
@[simp] theorem logRead_dout (v : Word) (s : State) : (logRead v s).dout = s.dout := rfl
@[simp] theorem logRead_done (v : Word) (s : State) : (logRead v s).done = s.done := rfl
@[simp] theorem logRead_err (v : Word) (s : State) : (logRead v s).err = s.err := rfl
@[simp] theorem logRead_errcode (v : Word) (s : State) : (logRead v s).errcode = s.errcode := rfl
@[simp] theorem logRead_skv (v : Word) (s : State) : (logRead v s).skv = s.skv := rfl
@[simp] theorem logRead_pending (v : Word) (s : State) : (logRead v s).pending = s.pending := rfl
@[simp] theorem logRead_program (v : Word) (s : State) : (logRead v s).program = s.program := rfl
@[simp] theorem logRead_turns (v : Word) (s : State) : (logRead v s).turns = s.turns := rfl
@[simp] theorem logRead_reads (v : Word) (s : State) : (logRead v s).reads = s.reads ++ [v] := rfl

@[simp] theorem resetCore_key (s : State) : (resetCore s).key = State.reset.key := rfl
@[simp] theorem resetCore_sk0 (s : State) : (resetCore s).sk0 = State.reset.sk0 := rfl
@[simp] theorem resetCore_sk1 (s : State) : (resetCore s).sk1 = State.reset.sk1 := rfl
@[simp] theorem resetCore_sk2 (s : State) : (resetCore s).sk2 = State.reset.sk2 := rfl
@[simp] theorem resetCore_din (s : State) : (resetCore s).din = State.reset.din := rfl
@[simp] theorem resetCore_dout (s : State) : (resetCore s).dout = State.reset.dout := rfl
@[simp] theorem resetCore_done (s : State) : (resetCore s).done = State.reset.done := rfl
@[simp] theorem resetCore_err (s : State) : (resetCore s).err = State.reset.err := rfl
@[simp] theorem resetCore_errcode (s : State) : (resetCore s).errcode = State.reset.errcode := rfl
@[simp] theorem resetCore_skv (s : State) : (resetCore s).skv = State.reset.skv := rfl
@[simp] theorem resetCore_pending (s : State) : (resetCore s).pending = State.reset.pending := rfl
@[simp] theorem resetCore_program (s : State) : (resetCore s).program = s.program := rfl
@[simp] theorem resetCore_turns (s : State) : (resetCore s).turns = s.turns := rfl
@[simp] theorem resetCore_reads (s : State) : (resetCore s).reads = s.reads := rfl

@[simp] theorem dropOp_key (s : State) : (dropOp s).key = s.key := rfl
@[simp] theorem dropOp_sk0 (s : State) : (dropOp s).sk0 = s.sk0 := rfl
@[simp] theorem dropOp_sk1 (s : State) : (dropOp s).sk1 = s.sk1 := rfl
@[simp] theorem dropOp_sk2 (s : State) : (dropOp s).sk2 = s.sk2 := rfl
@[simp] theorem dropOp_din (s : State) : (dropOp s).din = s.din := rfl
@[simp] theorem dropOp_dout (s : State) : (dropOp s).dout = s.dout := rfl
@[simp] theorem dropOp_done (s : State) : (dropOp s).done = s.done := rfl
@[simp] theorem dropOp_err (s : State) : (dropOp s).err = s.err := rfl
@[simp] theorem dropOp_errcode (s : State) : (dropOp s).errcode = s.errcode := rfl
@[simp] theorem dropOp_skv (s : State) : (dropOp s).skv = s.skv := rfl
@[simp] theorem dropOp_pending (s : State) : (dropOp s).pending = s.pending := rfl
@[simp] theorem dropOp_program (s : State) : (dropOp s).program = s.program.tail := rfl
@[simp] theorem dropOp_turns (s : State) : (dropOp s).turns = s.turns := rfl
@[simp] theorem dropOp_reads (s : State) : (dropOp s).reads = s.reads := rfl

@[simp] theorem takeTurn_key (s : State) : (takeTurn s).key = s.key := rfl
@[simp] theorem takeTurn_sk0 (s : State) : (takeTurn s).sk0 = s.sk0 := rfl
@[simp] theorem takeTurn_sk1 (s : State) : (takeTurn s).sk1 = s.sk1 := rfl
@[simp] theorem takeTurn_sk2 (s : State) : (takeTurn s).sk2 = s.sk2 := rfl
@[simp] theorem takeTurn_din (s : State) : (takeTurn s).din = s.din := rfl
@[simp] theorem takeTurn_dout (s : State) : (takeTurn s).dout = s.dout := rfl
@[simp] theorem takeTurn_done (s : State) : (takeTurn s).done = s.done := rfl
@[simp] theorem takeTurn_err (s : State) : (takeTurn s).err = s.err := rfl
@[simp] theorem takeTurn_errcode (s : State) : (takeTurn s).errcode = s.errcode := rfl
@[simp] theorem takeTurn_skv (s : State) : (takeTurn s).skv = s.skv := rfl
@[simp] theorem takeTurn_pending (s : State) : (takeTurn s).pending = s.pending := rfl
@[simp] theorem takeTurn_program (s : State) : (takeTurn s).program = s.program := rfl
@[simp] theorem takeTurn_turns (s : State) : (takeTurn s).turns = s.turns.tail := rfl
@[simp] theorem takeTurn_reads (s : State) : (takeTurn s).reads = s.reads := rfl

@[simp] theorem raiseError_key (c : ErrCause) (s : State) : (raiseError c s).key = s.key := by
  unfold raiseError; split <;> simp_all
@[simp] theorem raiseError_sk0 (c : ErrCause) (s : State) : (raiseError c s).sk0 = s.sk0 := by
  unfold raiseError; split <;> simp_all
@[simp] theorem raiseError_sk1 (c : ErrCause) (s : State) : (raiseError c s).sk1 = s.sk1 := by
  unfold raiseError; split <;> simp_all
@[simp] theorem raiseError_sk2 (c : ErrCause) (s : State) : (raiseError c s).sk2 = s.sk2 := by
  unfold raiseError; split <;> simp_all
@[simp] theorem raiseError_din (c : ErrCause) (s : State) : (raiseError c s).din = s.din := by
  unfold raiseError; split <;> simp_all
@[simp] theorem raiseError_dout (c : ErrCause) (s : State) : (raiseError c s).dout = s.dout := by
  unfold raiseError; split <;> simp_all
@[simp] theorem raiseError_done (c : ErrCause) (s : State) : (raiseError c s).done = s.done := by
  unfold raiseError; split <;> simp_all
@[simp] theorem raiseError_err (c : ErrCause) (s : State) : (raiseError c s).err = true := by
  unfold raiseError; split <;> simp_all
@[simp] theorem raiseError_errcode (c : ErrCause) (s : State) : (raiseError c s).errcode = (if s.err then s.errcode else causeCode c) := by
  unfold raiseError; split <;> simp_all
@[simp] theorem raiseError_skv (c : ErrCause) (s : State) : (raiseError c s).skv = s.skv := by
  unfold raiseError; split <;> simp_all
@[simp] theorem raiseError_pending (c : ErrCause) (s : State) : (raiseError c s).pending = s.pending := by
  unfold raiseError; split <;> simp_all
@[simp] theorem raiseError_program (c : ErrCause) (s : State) : (raiseError c s).program = s.program := by
  unfold raiseError; split <;> simp_all
@[simp] theorem raiseError_turns (c : ErrCause) (s : State) : (raiseError c s).turns = s.turns := by
  unfold raiseError; split <;> simp_all
@[simp] theorem raiseError_reads (c : ErrCause) (s : State) : (raiseError c s).reads = s.reads := by
  unfold raiseError; split <;> simp_all

@[simp] theorem refuse_key (c : ErrCause) (s : State) : (refuse c s).key = s.key := raiseError_key c s
@[simp] theorem refuse_sk0 (c : ErrCause) (s : State) : (refuse c s).sk0 = s.sk0 := raiseError_sk0 c s
@[simp] theorem refuse_sk1 (c : ErrCause) (s : State) : (refuse c s).sk1 = s.sk1 := raiseError_sk1 c s
@[simp] theorem refuse_sk2 (c : ErrCause) (s : State) : (refuse c s).sk2 = s.sk2 := raiseError_sk2 c s
@[simp] theorem refuse_din (c : ErrCause) (s : State) : (refuse c s).din = s.din := raiseError_din c s
@[simp] theorem refuse_dout (c : ErrCause) (s : State) : (refuse c s).dout = s.dout := raiseError_dout c s
@[simp] theorem refuse_done (c : ErrCause) (s : State) : (refuse c s).done = true := rfl
@[simp] theorem refuse_err (c : ErrCause) (s : State) : (refuse c s).err = true := raiseError_err c s
@[simp] theorem refuse_errcode (c : ErrCause) (s : State) : (refuse c s).errcode = (if s.err then s.errcode else causeCode c) := raiseError_errcode c s
@[simp] theorem refuse_skv (c : ErrCause) (s : State) : (refuse c s).skv = s.skv := raiseError_skv c s
@[simp] theorem refuse_pending (c : ErrCause) (s : State) : (refuse c s).pending = s.pending := raiseError_pending c s
@[simp] theorem refuse_program (c : ErrCause) (s : State) : (refuse c s).program = s.program := raiseError_program c s
@[simp] theorem refuse_turns (c : ErrCause) (s : State) : (refuse c s).turns = s.turns := raiseError_turns c s
@[simp] theorem refuse_reads (c : ErrCause) (s : State) : (refuse c s).reads = s.reads := raiseError_reads c s

/-- Two states with equal fields are equal. -/
theorem State.ext_fields {s t : State} (h1 : s.key = t.key) (h2 : s.sk0 = t.sk0) (h3 : s.sk1 = t.sk1)
    (h4 : s.sk2 = t.sk2) (h5 : s.din = t.din) (h6 : s.dout = t.dout) (h7 : s.done = t.done) (h8 : s.err = t.err)
    (h9 : s.errcode = t.errcode) (h10 : s.skv = t.skv) (h11 : s.pending = t.pending)
    (h12 : s.program = t.program) (h13 : s.turns = t.turns) (h14 : s.reads = t.reads) : s = t := by
  cases s; cases t; simp_all

end Sys2Proof.Machine
end

