-- ==== Sys2Proof/Laws/Ops.lean ====
section
/-! SUPPORT. What the shared operations, the agents' steps and the whole step can do, said once each. -/

namespace Sys2Proof.Machine

/-! ## BUSY and the writes -/

theorem busy_iff (s : State) : busy s = true ↔ s.pending ≠ none := by
  unfold busy; cases s.pending <;> simp

theorem busy_eq_false (s : State) : busy s = false ↔ s.pending = none := by
  unfold busy; cases s.pending <;> simp

/-- A guarded write: dropped with WRITE_WHILE_BUSY while BUSY, else its effect (R56-R58). -/
theorem writeUnlessBusy_cases (f : State → State) (s : State) :
    (busy s = true ∧ writeUnlessBusy f s = raiseError .writeWhileBusy s)
    ∨ (busy s = false ∧ writeUnlessBusy f s = f s) := by
  unfold writeUnlessBusy; cases h : busy s <;> simp

/-- A word written to CMD: overrun, refused or accepted (R84). -/
theorem offerCmd_cases (w : Word) (s : State) :
    (busy s = true ∧ offerCmd w s = raiseError .cmdOverrun s)
    ∨ (busy s = false ∧ ∃ c, decode w = .illegal c ∧ offerCmd w s = refuse c s)
    ∨ (busy s = false ∧ ∃ op sel, decode w = .legal op sel ∧ offerCmd w s = accept op sel s) := by
  unfold offerCmd; cases h : busy s
  · cases hd : decode w <;> simp
  · simp

/-- The registers by index (R21). -/
theorem regAt_cases (idx : BitVec 4) :
    (idx = 0 ∧ regAt idx = .key) ∨ (idx = 1 ∧ regAt idx = .sk 0) ∨ (idx = 2 ∧ regAt idx = .sk 1)
    ∨ (idx = 3 ∧ regAt idx = .sk 2) ∨ (idx = 4 ∧ regAt idx = .din) ∨ (idx = 5 ∧ regAt idx = .dout)
    ∨ (idx = 6 ∧ regAt idx = .status) ∨ (idx = 7 ∧ regAt idx = .cmd)
    ∨ (8 ≤ idx.toNat ∧ regAt idx = .reserved) := by
  revert idx; decide

/-- Everything a bus write can do (R55-R62). -/
theorem busWrite_cases (idx : BitVec 4) (v : Word) (s : State) :
    (idx = 0 ∧ busWrite idx v s = writeUnlessBusy (setKey v) s)
    ∨ (∃ i : Fin 3, idx = BitVec.ofNat 4 (i.val + 1) ∧ busWrite idx v s = writeUnlessBusy (setSk i v) s)
    ∨ (idx = 4 ∧ busWrite idx v s = writeUnlessBusy (setDin v) s)
    ∨ (idx = 6 ∧ v.getLsbD 2 = true ∧ busWrite idx v s = clearError s)
    ∨ (idx = 7 ∧ busWrite idx v s = offerCmd v s)
    ∨ ((idx = 5 ∨ 8 ≤ idx.toNat ∨ (idx = 6 ∧ v.getLsbD 2 = false)) ∧ busWrite idx v s = s) := by
  unfold busWrite
  rcases regAt_cases idx with h | h | h | h | h | h | h | h | h <;> obtain ⟨h, hr⟩ := h <;> simp only [hr]
  · exact .inl ⟨h, trivial⟩
  · exact .inr (.inl ⟨0, h, rfl⟩)
  · exact .inr (.inl ⟨1, h, rfl⟩)
  · exact .inr (.inl ⟨2, h, rfl⟩)
  · exact .inr (.inr (.inl ⟨h, trivial⟩))
  · exact .inr (.inr (.inr (.inr (.inr ⟨.inl h, trivial⟩))))
  · cases hv : v.getLsbD 2
    · exact .inr (.inr (.inr (.inr (.inr ⟨.inr (.inr ⟨h, rfl⟩), by simp⟩))))
    · exact .inr (.inr (.inr (.inl ⟨h, rfl, by simp⟩)))
  · exact .inr (.inr (.inr (.inr (.inl ⟨h, trivial⟩))))
  · exact .inr (.inr (.inr (.inr (.inr ⟨.inr (.inl h), trivial⟩))))

/-- No bus access touches the host's program or the turns. -/
theorem busAccess_environment (a : BusAccess) (s : State) :
    (busAccess a s).program = s.program ∧ (busAccess a s).turns = s.turns := by
  cases a with
  | read idx => simp [busAccess]
  | write idx v =>
    simp only [busAccess]
    rcases busWrite_cases idx v s with h | ⟨i, -, h⟩ | h | h | h | h
    · rw [h.2]; rcases writeUnlessBusy_cases (setKey v) s with h | h <;> rw [h.2] <;> simp
    · rw [h]; rcases writeUnlessBusy_cases (setSk i v) s with h | h <;> rw [h.2] <;> simp
    · rw [h.2]; rcases writeUnlessBusy_cases (setDin v) s with h | h <;> rw [h.2] <;> simp
    · rw [h.2.2]; simp
    · rw [h.2]
      rcases offerCmd_cases v s with h | ⟨-, c, -, h⟩ | ⟨-, op, sel, -, h⟩
      · rw [h.2]; simp
      · rw [h]; simp
      · rw [h]; simp
    · rw [h.2]; simp

/-! ## The agents' steps -/

/-- Everything an answered step of the host can be: nothing left to do, or one bus access, after which the operation is
used up unless it is a `wait` that read BUSY = 1. -/
theorem hostStep_next {s t : State} (h : hostStep s = .next t) :
    (s.program = [] ∧ t = s)
    ∨ ∃ a, hostAccess s = some a
      ∧ (t = busAccess a (dropOp s) ∨ (a = .read 6 ∧ s.program.head? = some .wait ∧ t = busAccess a s)) := by
  unfold hostStep at h
  split at h
  · rename_i hp
    exact .inl ⟨hp, (Host.Outcome.next.inj h).symm⟩
  · rename_i a rest hp
    exact .inr ⟨a, by simp only [hostAccess, hp], .inl (Host.Outcome.next.inj h).symm⟩
  · rename_i r rest hp
    cases hb : bridge Config.baseAddr r with
    | error e => rw [hb] at h; cases h
    | ok a =>
      rw [hb] at h
      exact .inr ⟨a, by simp [hostAccess, hp, hb, Except.toOption], .inl (Host.Outcome.next.inj h).symm⟩
  · rename_i rest hp
    refine .inr ⟨.read 6, by simp only [hostAccess, hp], ?_⟩
    cases hv : (busRead statusIdx s).getLsbD 0
    · rw [hv] at h
      exact .inl (by simpa [statusIdx] using (Host.Outcome.next.inj h).symm)
    · rw [hv] at h
      exact .inr ⟨rfl, by rw [hp]; rfl, by simpa [statusIdx] using (Host.Outcome.next.inj h).symm⟩

/-- What every command does at completion, whichever it is: it answers, BUSY falls, DONE is set, and the error record
and the environment stand (R87, R29, R261). -/
theorem exec_frame (i : Instr) (s : State) :
    ∃ t, exec i s = .next t ∧ t.pending = none ∧ t.done = true ∧ t.err = s.err ∧ t.errcode = s.errcode
      ∧ t.program = s.program ∧ t.turns = s.turns ∧ t.reads = s.reads := by
  cases i <;> exact ⟨_, rfl, rfl, rfl, rfl, rfl, rfl, rfl, rfl⟩

/-- A command other than DERIVE and ZEROIZE leaves KEY, SK0-SK2, SKV and DIN as they are (R24, R30). -/
theorem exec_keeps_operands {i : Instr} {s t : State} (h : exec i s = .next t) (hd : i ≠ .derive)
    (hz : i ≠ .zeroize) :
    t.key = s.key ∧ t.sk0 = s.sk0 ∧ t.sk1 = s.sk1 ∧ t.sk2 = s.sk2 ∧ t.skv = s.skv ∧ t.din = s.din := by
  cases i <;> first
    | exact absurd rfl hd
    | exact absurd rfl hz
    | (cases h; exact ⟨rfl, rfl, rfl, rfl, rfl, rfl⟩)

/-- Everything an answered step of the engine can be: not enabled, or the pending command runs (R87). -/
theorem engineStep_next {s t : State} (h : engineStep s = .next t) :
    (s.pending = none ∧ t = s)
    ∨ ∃ i, s.pending = some (instrOp i, instrSel i) ∧ exec i s = .next t := by
  unfold engineStep at h
  split at h
  · rename_i hp
    exact .inl ⟨hp, (Host.Outcome.next.inj h).symm⟩
  · rename_i op sel hp
    split at h
    · rename_i i hi
      obtain ⟨rfl, rfl⟩ := (pairInstr_eq_some op sel i).1 hi
      exact .inr ⟨i, hp, h⟩
    · cases h

/-- Everything an answered step can be (R20, R290). -/
theorem step_next {s t : State} (h : step s = .next t) :
    (mover s = .host ∧ hostStep (takeTurn s) = .next t)
    ∨ (mover s = .engine ∧ engineStep (takeTurn s) = .next t)
    ∨ (mover s = .reset ∧ t = resetCore (takeTurn s)) := by
  unfold step at h
  cases hm : mover s <;> simp only [hm] at h
  · exact .inl ⟨rfl, h⟩
  · exact .inr (.inl ⟨rfl, h⟩)
  · exact .inr (.inr ⟨rfl, (Host.Outcome.next.inj h).symm⟩)

/-- A run whose first step answers is the run from there. -/
theorem run_succ {s t : State} (h : step s = .next t) (n : Nat) : run (n + 1) s = run n t := by
  simp only [run, h]

@[simp] theorem hostAccess_takeTurn (s : State) : hostAccess (takeTurn s) = hostAccess s := rfl

end Sys2Proof.Machine
end

