-- ==== Sys2Proof/Laws/PerInstr.lean ====
section
/-! SUPPORT. What holds of every command as syntax, one lemma per constructor. -/

namespace Sys2Proof.Laws.CommandWord

/-- The command's word has well-formed fields, decodes to the legal pair of its opcode and selector, and that pair stands
for the command (30_encoding.md R82, R83, R88, R94). -/
def Statement (i : Instr) : Prop :=
  (fieldsOf (encode i)).WellFormed ∧ decode (encode i) = .legal (instrOp i) (instrSel i)
    ∧ pairInstr (instrOp i) (instrSel i) = some i

theorem nop : Statement .nop := by unfold Statement; decide

theorem derive : Statement .derive := by unfold Statement; decide

theorem encrypt : Statement .encrypt := by unfold Statement; decide

theorem decrypt : Statement .decrypt := by unfold Statement; decide

theorem subSk0 : Statement .subSk0 := by unfold Statement; decide

theorem subSk1 : Statement .subSk1 := by unfold Statement; decide

theorem subSk2 : Statement .subSk2 := by unfold Statement; decide

theorem subinvSk0 : Statement .subinvSk0 := by unfold Statement; decide

theorem subinvSk1 : Statement .subinvSk1 := by unfold Statement; decide

theorem subinvSk2 : Statement .subinvSk2 := by unfold Statement; decide

theorem permSk0 : Statement .permSk0 := by unfold Statement; decide

theorem permSk1 : Statement .permSk1 := by unfold Statement; decide

theorem permSk2 : Statement .permSk2 := by unfold Statement; decide

theorem perminvSk0 : Statement .perminvSk0 := by unfold Statement; decide

theorem perminvSk1 : Statement .perminvSk1 := by unfold Statement; decide

theorem perminvSk2 : Statement .perminvSk2 := by unfold Statement; decide

theorem roundSk0 : Statement .roundSk0 := by unfold Statement; decide

theorem roundSk1 : Statement .roundSk1 := by unfold Statement; decide

theorem roundSk2 : Statement .roundSk2 := by unfold Statement; decide

theorem roundinvSk0 : Statement .roundinvSk0 := by unfold Statement; decide

theorem roundinvSk1 : Statement .roundinvSk1 := by unfold Statement; decide

theorem roundinvSk2 : Statement .roundinvSk2 := by unfold Statement; decide

theorem zeroize : Statement .zeroize := by unfold Statement; decide

end Sys2Proof.Laws.CommandWord
end

