-- ==== Sys2Proof/Tests/Slice0.lean ====
section
/-! SUPPORT. Small tests, their expected values from 95_test_vectors.md and the rules' own examples; and, for every
statement with hypotheses, a witness that meets them. -/

namespace Sys2Proof.Tests

open Sys2Proof Sys2Proof.Machine

/-! ## Helpers -/

/-- A field of the next state, if there is one. -/
def after {α : Type} (f : State → α) : Host.Outcome State Fault Refusal → Option α
  | .next t => some (f t)
  | _ => none

/-- A state with given KEY, subkeys and DIN, SKV set and a command accepted. -/
def st (key k0 k1 k2 x : Word) : State :=
  { State.reset with key := key, sk0 := k0, sk1 := k1, sk2 := k2, din := x, skv := true, pending := some (0, 0) }

/-- The state of the spec's traces T1 and T2 after DERIVE of 0x1A2B3C4D. -/
def derived (x : Word) : State := st 0x1A2B3C4D 0xE50F9AF2 0xE263E272 0x8721785C x

/-- A state in which the host's only operation is `op`, and the host moves. -/
def hostState (op : HostOp) : State := { State.reset with program := [op], turns := [.host] }

/-- The same with a NOP pending. -/
def busyState (op : HostOp) : State := { hostState op with pending := some (0, 0) }

/-- A state in which the engine moves with the pair pending. -/
def engineState (op : BitVec 4) (sel : BitVec 2) : State :=
  { State.reset with pending := some (op, sel), turns := [.engine] }

/-- STATUS after one step. -/
def statusAfter (s : State) : Option Word := after statusWord (step s)

/-! ## Well-formedness: a refused term for each check (R83, R90) -/

theorem test_wellFormed_accepts : CmdFields.WellFormed ⟨0x9, 2, 0⟩ := by decide
theorem test_wellFormed_reserved_opcode : ¬ CmdFields.WellFormed ⟨0xA, 0, 0⟩ := by decide
theorem test_wellFormed_reserved_field : ¬ CmdFields.WellFormed ⟨0x2, 0, 1⟩ := by decide
theorem test_wellFormed_sel3 : ¬ CmdFields.WellFormed ⟨0x4, 3, 0⟩ := by decide
theorem test_wellFormed_sel_unused : ¬ CmdFields.WellFormed ⟨0xF, 1, 0⟩ := by decide

/-! ## Decoding: words written out bit by bit from R80 and R82 (RSV, SEL, OP), and 95_test_vectors.md 2.7 -/

theorem test_decode_derive : decodeInstr 0b00000000000000000000000000_00_0001 = some .derive := by decide
theorem test_decode_decrypt : decodeInstr 0b00000000000000000000000000_00_0011 = some .decrypt := by decide
theorem test_decode_sub_sk1 : decodeInstr 0b00000000000000000000000000_01_0100 = some .subSk1 := by decide
theorem test_decode_permInv_sk2 : decodeInstr 0b00000000000000000000000000_10_0111 = some .perminvSk2 := by decide
theorem test_decode_round_sk0 : decodeInstr 0b00000000000000000000000000_00_1000 = some .roundSk0 := by decide
theorem test_decode_zeroize : decodeInstr 0b00000000000000000000000000_00_1111 = some .zeroize := by decide
theorem test_decode_opcode_first :
    [0x0000000A, 0x0000003E, 0x0000004A, 0xFFFFFFFA].map decode
      = List.replicate 4 (.illegal .illegalOpcode) := by decide
theorem test_decode_reserved_fields :
    [0x00000040, 0x80000002, 0xFFFFFFFF, 0x00000034, 0x00000039, 0x00000011, 0x0000001F, 0x0000003F, 0x00000010].map
      decode = List.replicate 9 (.illegal .reservedField) := by decide
theorem test_legal_words_under_64 :
    ((List.range 64).filter fun n => (decodeTableWord 32 n).isSome).length = 23 := by decide

/-! ## Commands: each on a small state, the results those of the rules' examples -/

theorem test_nop : after (fun t => (t.key, statusWord t)) (exec .nop (engineState 0 0)) = some (0, 2) := by decide
theorem test_derive :
    after (fun t => (t.sk0, t.sk1, t.sk2)) (exec .derive (st 0x1A2B3C4D 0 0 0 0))
      = some (0xE50F9AF2, 0xE263E272, 0x8721785C) := by decide
theorem test_derive_status : after statusWord (exec .derive (engineState 1 0)) = some 0x0000000A := by decide
theorem test_encrypt_T1 : after State.dout (exec .encrypt (derived 0)) = some 0xC75E16EC := by decide +kernel
theorem test_encrypt_T2 : after State.dout (exec .encrypt (derived 0x12345678)) = some 0x6D3F743F := by decide +kernel
theorem test_decrypt_T1 : after State.dout (exec .decrypt (derived 0xC75E16EC)) = some 0 := by decide +kernel
theorem test_decrypt_wrong_order :
    after State.dout (exec .decrypt (st 0 0x8721785C 0xE263E272 0xE50F9AF2 0x6D3F743F)) = some 0x57BE54C5 := by decide +kernel
theorem test_sub_sk0 : after State.dout (exec .subSk0 (derived 0x12345678)) = some 0xF743F06A := by decide
theorem test_sub_sk1 : after State.dout (exec .subSk1 (st 0 0 0x12345678 0 0xDEADBEEF)) = some 0xF0E11467 := by decide
theorem test_sub_sk2_wraps :
    after State.dout (exec .subSk2 (st 0 0 0 0x01010101 0xFFFFFFFF)) = some 0 := by decide
theorem test_subinv_sk0 : after State.dout (exec .subinvSk0 (st 0 0x1A2B3C4D 0 0 0)) = some 0xE6D5C4B3 := by decide
theorem test_subinv_sk1 : after State.dout (exec .subinvSk1 (derived 0xB0BA3024)) = some 0xCE574EB2 := by decide
theorem test_subinv_sk2 :
    after State.dout (exec .subinvSk2 (st 0 0 0 0x12345678 0xDEADBEEF)) = some 0xCC796877 := by decide
theorem test_perm_sk0 : after State.dout (exec .permSk0 (st 0 0x1A2B3C4D 0 0 0x12345678)) = some 0x41C952D8 := by decide
theorem test_perm_sk0_lsb : after State.dout (exec .permSk0 (st 0 0x20 0 0 1)) = some 2 := by decide
theorem test_perm_sk1 : after State.dout (exec .permSk1 (st 0 0 0x3E1 0 0xDEADBEEF)) = some 0xEF56DF77 := by decide
theorem test_perm_sk2 : after State.dout (exec .permSk2 (st 0 0 0 3 0x80000000)) = some 0x20000000 := by decide
theorem test_perminv_sk0 :
    after State.dout (exec .perminvSk0 (st 0 0x1A2B3C4D 0 0 0x41C952D8)) = some 0x12345678 := by decide
theorem test_perminv_sk1_wraps : after State.dout (exec .perminvSk1 (st 0 0 0x20 0 1)) = some 0x80000000 := by decide
theorem test_perminv_sk2 : after State.dout (exec .perminvSk2 (st 0 0 0 3 0x80000000)) = some 0x00200000 := by decide
theorem test_round_sk0 : after State.dout (exec .roundSk0 (derived 0x12345678)) = some 0xCE574EB2 := by decide
theorem test_round_sk1 : after State.dout (exec .roundSk1 (derived 0xCE574EB2)) = some 0x16C48585 := by decide
theorem test_round_sk2 : after State.dout (exec .roundSk2 (derived 0x16C48585)) = some 0x6D3F743F := by decide
theorem test_roundinv_sk0 : after State.dout (exec .roundinvSk0 (derived 0xCE574EB2)) = some 0x12345678 := by decide
theorem test_roundinv_sk1 :
    after State.dout (exec .roundinvSk1 (derived 0x12345678)) = some 0x28EA46FC := by decide
theorem test_roundinv_sk2 : after State.dout (exec .roundinvSk2 (derived 0x6D3F743F)) = some 0x16C48585 := by decide
theorem test_zeroize :
    after (fun t => (t.key, t.sk0, t.din, t.skv)) (exec .zeroize (derived 5)) = some (0, 0, 0, false) := by decide
theorem test_zeroize_keeps_error :
    after (fun t => (t.err, t.errcode)) (exec .zeroize { derived 5 with err := true, errcode := 3 })
      = some (true, 3) := by decide

/-! ## The command life and the bus (95_test_vectors.md 2.7, 2.8, P3, P6) -/

theorem test_accept_nop : statusAfter (hostState (.bus (.write 7 0))) = some 0x00000001 := by decide
theorem test_refuse_opcode : statusAfter (hostState (.bus (.write 7 0x0A))) = some 0x00000106 := by decide
theorem test_refuse_field : statusAfter (hostState (.bus (.write 7 0x34))) = some 0x00000206 := by decide
theorem test_overrun_before_decode :
    statusAfter { busyState (.bus (.write 7 0x0A)) with skv := true } = some 0x0000030D := by decide
theorem test_din_write_while_busy : statusAfter (busyState (.bus (.write 4 5))) = some 0x00000405 := by decide
theorem test_first_error_kept :
    statusAfter { busyState (.bus (.write 7 2)) with err := true, errcode := 4 } = some 0x00000405 := by decide
theorem test_key_write_clears_skv :
    statusAfter { hostState (.bus (.write 0 7)) with skv := true, done := true } = some 0x00000002 := by decide
theorem test_status_write_without_bit2 :
    statusAfter { hostState (.bus (.write 6 0xFFFFFFFB)) with err := true, errcode := 1, done := true }
      = some 0x00000106 := by decide
theorem test_status_write_with_bit2 :
    statusAfter { hostState (.bus (.write 6 4)) with err := true, errcode := 1, done := true } = some 0x00000002 := by
  decide
theorem test_dout_write_ignored :
    after State.dout (step (hostState (.bus (.write 5 0x55555555)))) = some 0 := by decide
theorem test_read_appends :
    after State.reads (step { hostState (.bus (.read 4)) with din := 9, reads := [1] }) = some [1, 9] := by decide
theorem test_wait_stays_while_busy :
    after State.program (step (busyState .wait)) = some [.wait] := by decide
theorem test_wait_leaves_when_free :
    after State.program (step (hostState .wait)) = some [] := by decide
theorem test_reset_loses_pending :
    after (fun t => (t.pending, t.key)) (step { derived 1 with turns := [.reset] }) = some (none, 0) := by decide
theorem test_engine_not_enabled :
    after State.key (step { State.reset with key := 3, turns := [.engine] }) = some 3 := by decide
theorem test_turns_run_out_engine :
    after State.pending (step { engineState 0 0 with turns := [] }) = some none := by decide
theorem test_table_words_run :
    [0x00, 0x01, 0x02, 0x03, 0x0F, 0x04, 0x14, 0x24, 0x05, 0x15, 0x25, 0x06, 0x16, 0x26, 0x07, 0x17, 0x27, 0x08, 0x18,
      0x28, 0x09, 0x19, 0x29].all
      (fun w => statusAfter (State.reset.withFetchWord 32 w) == some (if w == 1 then 0x0A else 0x02)) = true := by decide +kernel
theorem test_illegal_word_offered :
    statusAfter (State.reset.withFetchWord 32 0x0A) = some 0x00000106 := by decide

/-! ## The bridge (R50, R65), with the window at 0x40000000 -/

theorem test_bridge_last_word :
    bridge 0x40000000 ⟨.load, 0x4000003C, 4, 0⟩ = .ok (.read 15) := by rfl
theorem test_bridge_narrow :
    bridge 0x40000000 ⟨.store, 0x40000000, 1, 0⟩ = .error .accessWidth := by rfl
theorem test_bridge_misaligned :
    bridge 0x40000000 ⟨.store, 0x40000002, 4, 0⟩ = .error .accessMisaligned := by rfl
theorem test_bridge_past_window :
    bridge 0x40000000 ⟨.store, 0x40000040, 4, 0⟩ = .error .accessOutsideWindow := by rfl

/-! ## Assembly and codec (R92, R93; 95_test_vectors.md 2.9) -/

theorem test_setkey_expands :
    expandLine (.setkey 1) = [.bus (.write 0 1), .bus (.write 7 1), .wait] := by decide
theorem test_cmd_word : cmdOp .roundinvSk2 = .bus (.write 7 0x29) := by decide
theorem test_line_text : lineText (.wr .key 0x1A2B3C4D) = "wr KEY, 0x1A2B3C4D" := by decide
theorem test_encrypt_bytes :
    encryptBytes [0x48, 0x65, 0x6C, 0x6C, 0x6F] 0x1A2B3C4D = [0x9A, 0xA5, 0x2C, 0x8E, 0xEF, 0x1E, 0x06, 0xCC] := by
  decide +kernel
theorem test_encrypt_text :
    encryptText (fun l => l.map fun c => BitVec.ofNat 8 c.toNat) ['A', 'B'] 1 = ['1', '0', '0', 'b', '9', '8', '1', '0'] := by
  decide +kernel
theorem test_decrypt_text_strips :
    (decryptText .lenient (fun l => some (singleByteDecode l)) ['1', '0', '0', 'B', '9', '8', '1', '0'] 1).toOption
      = some ['A', 'B'] := by decide +kernel
theorem test_decrypt_text_not_hex :
    (match decryptText .lenient (fun _ => none) ['x', 'y', 'z'] 1 with | .error e => some e | .ok _ => none)
      = some .invalidCiphertextFormat := by decide
theorem test_decrypt_text_length :
    (match decryptText .lenient (fun _ => none) ['0', '1', '0', '2', '0', '3', '0', '4', '0', '5'] 1 with
      | .error e => some e | .ok _ => none) = some .invalidCiphertextLength := by decide
theorem test_parse_key :
    (parseKey ['1', 'a', '2', 'B', '3', 'c', '4', 'D']).toOption = some 0x1A2B3C4D := by decide

/-! ## Witnesses: the hypotheses of each statement can be met -/

theorem witness_StepKeepsInv : CoreInv (engineState 1 0) ∧ ∃ t, step (engineState 1 0) = .next t := by
  refine ⟨⟨?_, fun _ => rfl, ?_, ?_⟩, ⟨_, rfl⟩⟩
  · intro p h
    cases h
    decide
  · unfold ErrcodeMatches
    decide
  · intro h
    cases h
theorem witness_HostStepMakesAccess :
    (∀ idx : BitVec 4, HostMoves (hostState (.bus (.read idx))) (.bus (.read idx)))
    ∧ (∀ (idx : BitVec 4) (v : Word), HostMoves (busyState (.bus (.write idx v))) (.bus (.write idx v)))
    ∧ mover State.reset = .host ∧ State.reset.program = [] :=
  ⟨fun _ => ⟨rfl, rfl⟩, fun _ _ => ⟨rfl, rfl⟩, rfl, rfl⟩
theorem witness_BusReadReturns : 7 ≤ (7 : BitVec 4).toNat ∧ 7 ≤ (15 : BitVec 4).toNat := by decide
theorem witness_IgnoredWrites : ∀ idx ∈ [(5 : BitVec 4), 8, 15], idx.toNat = 5 ∨ 8 ≤ idx.toNat := by decide
theorem witness_StatusLayout : (4 : Word).getLsbD 2 = true ∧ (0xFFFFFFFB : Word).getLsbD 2 = false
    ∧ 4 ≤ 7 ∧ 7 < 8 ∧ 2 < 3 ∧ 11 ≤ 31 := by decide
theorem witness_UnalignedOrNarrowRefused :
    HostMoves (hostState (.request ⟨.load, 0, 8, 0⟩)) (.request ⟨.load, 0, 8, 0⟩)
    ∧ HostMoves (hostState (.request ⟨.load, 3, 4, 0⟩)) (.request ⟨.load, 3, 4, 0⟩) ∧ 3 % 4 ≠ 0 :=
  ⟨⟨rfl, rfl⟩, ⟨rfl, rfl⟩, by decide⟩
theorem witness_WindowAddresses : ∀ (idx : BitVec 4) (k : AccessKind),
    HostMoves (hostState (.request ⟨k, Config.baseAddr + 4 * idx.toNat, 4, 1⟩))
      (.request ⟨k, Config.baseAddr + 4 * idx.toNat, 4, 1⟩) := fun _ _ => ⟨rfl, rfl⟩
theorem witness_BusyFreezesRegisters :
    (busyState (.bus (.write 0 1))).pending ≠ none ∧ mover (busyState (.bus (.write 0 1))) = .host
    ∧ ∃ t, step (busyState (.bus (.write 0 1))) = .next t := ⟨by decide, rfl, ⟨_, rfl⟩⟩
theorem witness_EngineRunsPending : decodeInstr 0x29 = some .roundinvSk2
    ∧ (engineState 9 2).pending = some ((0x29 : Word).extractLsb' 0 4, (0x29 : Word).extractLsb' 4 2)
    ∧ mover (engineState 9 2) = .engine := by decide
theorem witness_WrittenCommandRuns :
    let s := { hostState (.bus (.write 7 0x0F)) with turns := [.host, .engine, .host] }
    decodeInstr 0x0F = some .zeroize ∧ HostMoves s (.bus (.write 7 0x0F)) ∧ s.pending = none
    ∧ s.turns = .host :: .engine :: [.host] := ⟨by decide, ⟨rfl, rfl⟩, rfl, rfl⟩
theorem witness_PlacedWordRuns : decodeInstr 0x02 = some .encrypt := by decide
theorem witness_OnlyNamedStops : PendingLegal State.reset
    ∧ (engineState 0xA 0).pending = some (0xA, 0) ∧ ¬ CmdFields.WellFormed ⟨0xA, 0, 0⟩
    ∧ mover (engineState 0xA 0) = .engine := ⟨fun _ h => (by cases h), rfl, by decide, rfl⟩
theorem witness_OnlyNamedStops_refusal :
    let r : ByteRequest := ⟨.load, 1, 4, 0⟩
    HostMoves (hostState (.request r)) (.request r) ∧ bridge Config.baseAddr r = .error .accessMisaligned :=
  ⟨⟨rfl, rfl⟩, rfl⟩
theorem witness_WaitEndsWithBusyClear :
    let s := { busyState .wait with turns := [.host, .host, .engine, .host] }
    PendingLegal s ∧ s.pending ≠ none ∧ s.program = .wait :: []
    ∧ s.turns = List.replicate 2 .host ++ .engine :: .host :: [] := by
  refine ⟨?_, by decide, rfl, rfl⟩
  intro p h
  cases h
  decide
theorem witness_SubstitutionLaws : IsSubstituted 0x01FF0000 0x02010000 0x03000000 := by
  unfold IsSubstituted laneNat
  decide
theorem witness_InverseMultiplierTable : 31 % 2 = 1 ∧ 31 < 32 ∧ 31 * 31 % 32 = 1 := by decide
theorem witness_PermutationCountAndRotation :
    (multOf 0x3E1 = 1 ∧ addOf 0x3E1 = 31) ∧ (multOf 0x20 = 1 ∧ addOf 0x20 = 1) ∧ multOf 0x1 = 1 ∧ addOf 0x1 = 0 := by
  decide
theorem witness_EncryptInjective :
    ∃ s s' : State, s.din ≠ s'.din ∧ s.key ≠ s'.key ∧ s.sk0 = s'.sk0 ∧ s.sk1 = s'.sk1 ∧ s.sk2 = s'.sk2 :=
  ⟨st 5 1 2 3 4, st 6 1 2 3 7, by decide⟩
theorem test_relation_of_R190_met : IsEncrypted 1 0 0 0 1 := by
  have h : IsRound 1 0 1 := by
    refine ⟨1, ?_, ?_⟩
    · unfold IsSubstituted laneNat
      decide
    · unfold IsPermuted multOf addOf
      decide
  exact ⟨1, 1, h, h, h⟩
theorem witness_ZeroSubkeysIdentity : (st 0xAAAAAAAA 1 2 3 4).key = 0xAAAAAAAA := rfl
theorem witness_ResetTurn : mover { State.reset with turns := [.reset] } = .reset := rfl
theorem witness_FirstErrorKept :
    let s := busyState (.bus (.write 4 5))
    let u := { s with err := true, errcode := 1 }
    mover s ≠ .reset ∧ s.err = false ∧ after State.err (step s) = some true ∧ u.err = true
    ∧ after State.err (step u) = some true := by decide
theorem witness_ErrClearedOnlyBy :
    let s := { hostState (.bus (.write 6 4)) with err := true, errcode := 2 }
    s.err = true ∧ after State.err (step s) = some false := by decide
theorem witness_SkvWriters :
    after State.skv (step (engineState 1 0)) = some true
    ∧ after State.skv (step { hostState (.bus (.write 3 0)) with skv := true }) = some false
    ∧ after State.skv (step { engineState 0xF 0 with skv := true }) = some false
    ∧ after State.skv (step { State.reset with skv := true, turns := [.reset] }) = some false := by decide
theorem witness_DinWriters :
    after State.din (step (hostState (.bus (.write 4 7)))) = some 7
    ∧ after State.din (step { engineState 0xF 0 with din := 7 }) = some 0 := by decide
theorem witness_DoutWriters : after State.dout (step { engineState 2 0 with din := 7 }) = some 7 := by decide +kernel
theorem witness_RotateBits : 1 ≤ 31 ∧ 31 ≤ 31 ∧ 31 < 32 := by decide
theorem witness_ScheduleLinearAndAvalanche : 31 < 32 ∧ 2 < 3 := by decide
theorem witness_BinaryRoundTrip : [1, 2, 3, 4, (5 : Byte)].length % 4 ≠ 0 ∧ [1, 2, 3, (4 : Byte)].length % 4 = 0 := by
  decide

end Sys2Proof.Tests
end

/-! Bytes and words as numbers (00_scope.md R14): the proof of O1. -/

namespace Sys2Proof.Machine

/-- The lane as a bit field and the lane as a number are the same byte (R122). -/
theorem toNat_lane_eq_laneNat (l : Nat) (w : Word) : (lane l w).toNat = laneNat l w := lane_toNat l w

/-- A word's number read from its four lanes in base 256. -/
theorem toNat_eq_sum_lanes (w : Word) :
    w.toNat = (lane 3 w).toNat * 256 ^ 3 + (lane 2 w).toNat * 256 ^ 2 + (lane 1 w).toNat * 256
      + (lane 0 w).toNat := by
  have hw : w.toNat < 2 ^ 32 := w.isLt
  simp only [lane_toNat]
  omega

/-- `be32` weighs its first byte most: `toNat_eq_sum_lanes`, whose lanes are the four bytes. -/
theorem be32_toNat (b0 b1 b2 b3 : Byte) :
    (be32 b0 b1 b2 b3).toNat
      = b0.toNat * 256 ^ 3 + b1.toNat * 256 ^ 2 + b2.toNat * 256 + b3.toNat := by
  simpa only [lane_be32_3, lane_be32_2, lane_be32_1, lane_be32_0]
    using toNat_eq_sum_lanes (be32 b0 b1 b2 b3)

theorem bytesBe_map_toNat (w : Word) :
    (bytesBe w).map BitVec.toNat = [laneNat 3 w, laneNat 2 w, laneNat 1 w, laneNat 0 w] := by
  simp only [bytesBe, List.map_cons, List.map_nil, toNat_lane_eq_laneNat]

@[simp] theorem bytesBe_be32 (b0 b1 b2 b3 : Byte) : bytesBe (be32 b0 b1 b2 b3) = [b0, b1, b2, b3] := by
  simp only [bytesBe, lane_be32_3, lane_be32_2, lane_be32_1, lane_be32_0]

/-- Settles O1: `bytes_be` lane by lane, `be32` by its base-256 digits, and the bytes read back from `be32`. -/
theorem bytesAndWordsAgree : Obligations.BytesAndWordsAgree :=
  ⟨bytesBe_map_toNat, be32_toNat, bytesBe_be32⟩

end Sys2Proof.Machine

/-! ## The zero subkey (R37, R124, R140) -/

namespace Sys2Proof.Machine

@[simp] theorem lane_zero (l : Nat) : lane l 0#32 = 0#8 := by
  simp [lane]

@[simp] theorem substitute_zero (x : Word) : substitute x 0#32 = x :=
  eq_of_lanes fun l hl => by simp [substitute, sbox, hl]

@[simp] theorem substituteInv_zero (x : Word) : substituteInv x 0#32 = x :=
  eq_of_lanes fun l hl => by simp [substituteInv, sboxInv, hl]

/-- The zero subkey has multiplier 1 and addend 0, so `permute` moves no bit. -/
theorem permPos_zero {i : Nat} (hi : i < 32) : permPos (multiplier 0#32) (addend 0#32) i = i := by
  rw [multiplier_eq, addend_eq, permPos]
  simpa using Nat.mod_eq_of_lt hi

theorem perminvPos_zero {j : Nat} (hj : j < 32) : perminvPos (multiplier 0#32) (addend 0#32) j = j := by
  simpa only [permPos_zero hj] using perminvPos_permPos 0#32 j hj

@[simp] theorem permute_zero (x : Word) : permute x 0#32 = x :=
  BitVec.eq_of_getLsbD_eq fun i hi => by simpa only [permPos_zero hi] using getLsbD_permute x 0#32 i hi

@[simp] theorem permuteInv_zero (x : Word) : permuteInv x 0#32 = x :=
  BitVec.eq_of_getLsbD_eq fun j hj => by simpa only [perminvPos_zero hj] using getLsbD_permuteInv x 0#32 j hj

@[simp] theorem roundEnc_zero (x : Word) : roundEnc x 0#32 = x := by
  simp only [roundEnc, substitute_zero, permute_zero]

@[simp] theorem roundDec_zero (x : Word) : roundDec x 0#32 = x := by
  simp only [roundDec, substituteInv_zero, permuteInv_zero]

@[simp] theorem encryptBlock_zero (x : Word) : encryptBlock x ⟨0#32, 0#32, 0#32⟩ = x := by
  simp only [encryptBlock, roundEnc_zero]

@[simp] theorem decryptBlock_zero (x : Word) : decryptBlock x ⟨0#32, 0#32, 0#32⟩ = x := by
  simp only [decryptBlock, roundDec_zero]

/-- Settles O2: the fields by evaluation, and the identities by the laws of the zero subkey. -/
theorem resetState : Obligations.ResetState := by
  refine ⟨rfl, rfl, rfl, rfl, rfl, rfl, by decide, rfl, rfl, rfl, rfl, rfl, rfl, by decide, fun x => ?_⟩
  exact ⟨substitute_zero x, substituteInv_zero x, permute_zero x, permuteInv_zero x, roundEnc_zero x,
    roundDec_zero x, encryptBlock_zero x, decryptBlock_zero x⟩

end Sys2Proof.Machine

/-! ## The STATUS word (R26) -/

namespace Sys2Proof.Machine

/-- The word a read of STATUS returns, bit by bit: four flags, four zero bits, then ERRCODE and zeros above it. -/
theorem getLsbD_statusWord (s : State) (k : Nat) :
    (statusWord s).getLsbD k =
      if k < 8 then [busy s, s.done, s.err, s.skv].getD k false else s.errcode.getLsbD (k - 8) := by
  simp only [statusWord, BitVec.getLsbD_setWidth, BitVec.getLsbD_append, BitVec.getLsbD_ofBool]
  by_cases hk : k < 8
  · interval_cases k <;> simp
  · obtain ⟨j, rfl⟩ := Nat.exists_eq_add_of_le (Nat.not_lt.1 hk)
    have herrcode : s.errcode.getLsbD j = true → 8 + j < 32 := fun h => by
      have := BitVec.lt_of_getLsbD h
      omega
    simpa using herrcode

theorem busRead_status (s : State) : busRead 6 s = statusWord s := rfl

theorem busWrite_status (v : Word) (s : State) :
    busWrite 6 v s = if v.getLsbD 2 then clearError s else s := rfl

/-- Settles O5: the bits by `getLsbD_statusWord`, the write by `clearError`'s frame. -/
theorem statusLayout : Obligations.StatusLayout := by
  refine ⟨fun s => ?_, by decide, fun s v => ?_⟩
  · simp only [busRead_status, getLsbD_statusWord]
    refine ⟨rfl, rfl, rfl, rfl, fun k h4 h8 => ?_, fun k h3 => ?_, fun k h11 => ?_⟩
    · simp [h8, h4]
    · simp
    · rw [if_neg (by omega), BitVec.getLsbD_of_ge _ _ (by omega)]
  · rw [busWrite_status]
    cases hv : v.getLsbD 2 <;> simp [SameButError]

end Sys2Proof.Machine

/-! ## What a step can do to the core (R20, R24, R25, R30) -/

namespace Sys2Proof.Machine

/-- `t` is `s` but for the environment's lists (log entry 1): nothing of the core has changed. -/
def SameCore (s t : State) : Prop :=
  ∃ program turns reads, t = { s with program := program, turns := turns, reads := reads }

theorem sameCore_takeTurn (s : State) : SameCore s (takeTurn s) := ⟨_, _, _, rfl⟩

theorem sameCore_dropOp_takeTurn (s : State) : SameCore s (dropOp (takeTurn s)) := ⟨_, _, _, rfl⟩

theorem SameCore.logRead {s t : State} (h : SameCore s t) (v : Word) : SameCore s (logRead v t) := by
  obtain ⟨_, _, _, rfl⟩ := h
  exact ⟨_, _, _, rfl⟩

/-- No reset, no completion and no bus write happens at this step: a read, or an agent with nothing to do. -/
structure Quiet (s : State) : Prop where
  not_reset : mover s ≠ .reset
  not_completes : ∀ i, ¬ Completes s i
  not_writes : ∀ idx v, ¬ HostAccesses s (.write idx v)

/-- A step completes at most one command: the pending one. -/
theorem Completes.eq {s : State} {i j : Instr} (hi : Completes s i) (hj : Completes s j) : i = j := by
  obtain ⟨-, hi⟩ := hi
  obtain ⟨-, hj⟩ := hj
  have h := (pairInstr_eq_some (instrOp i) (instrSel i) j).2 (by simpa [hi] using hj)
  rw [(pairInstr_eq_some _ _ i).2 ⟨rfl, rfl⟩] at h
  exact Option.some.inj h

/-- A step of the host makes at most one bus access. -/
theorem HostAccesses.eq {s : State} {a b : BusAccess} (ha : HostAccesses s a) (hb : HostAccesses s b) : a = b := by
  obtain ⟨-, ha⟩ := ha
  obtain ⟨-, hb⟩ := hb
  exact Option.some.inj (ha.symm.trans hb)

/-- What a write of `v` at word index `idx` can do to the core: one case per effect (R55-R62, R84-R86). -/
inductive WriteEffect (idx : BitVec 4) (v : Word) (s : State) : State → Prop
  | dropped (c : ErrCause) (hbusy : s.pending ≠ none) : WriteEffect idx v s (raiseError c s)
  | key (hidle : s.pending = none) (hidx : idx = 0) : WriteEffect idx v s (setKey v s)
  | sk (i : Fin 3) (hidle : s.pending = none) (hidx : idx = BitVec.ofNat 4 (i.val + 1)) :
      WriteEffect idx v s (setSk i v s)
  | din (hidle : s.pending = none) (hidx : idx = 4) : WriteEffect idx v s (setDin v s)
  | errorCleared (hidx : idx = 6) (hbit : v.getLsbD 2 = true) : WriteEffect idx v s (clearError s)
  | refused (c : ErrCause) (hidle : s.pending = none) (hidx : idx = 7) (hillegal : decode v = .illegal c) :
      WriteEffect idx v s (refuse c s)
  | accepted (op : BitVec 4) (sel : BitVec 2) (hidle : s.pending = none) (hidx : idx = 7)
      (hlegal : decode v = .legal op sel) :
      WriteEffect idx v s (accept op sel s)
  | ignored (hidx : 5 ≤ idx.toNat) : WriteEffect idx v s s

theorem busWrite_effect (idx : BitVec 4) (v : Word) (s : State) : WriteEffect idx v s (busWrite idx v s) := by
  have guarded {f : State → State} (hf : s.pending = none → WriteEffect idx v s (f s)) :
      WriteEffect idx v s (writeUnlessBusy f s) := by
    rcases writeUnlessBusy_cases f s with ⟨hb, h⟩ | ⟨hb, h⟩ <;> rw [h]
    · exact .dropped _ ((busy_iff s).1 hb)
    · exact hf ((busy_eq_false s).1 hb)
  rcases busWrite_cases idx v s with ⟨hi, h⟩ | ⟨i, hi, h⟩ | ⟨hi, h⟩ | ⟨hi, hv, h⟩ | ⟨hi, h⟩ | ⟨hi, h⟩ <;>
    rw [h]
  · exact guarded fun hp => .key hp hi
  · exact guarded fun hp => .sk i hp hi
  · exact guarded fun hp => .din hp hi
  · exact .errorCleared hi hv
  · rcases offerCmd_cases v s with ⟨hb, h⟩ | ⟨hb, c, hd, h⟩ | ⟨hb, op, sel, hd, h⟩ <;> rw [h]
    · exact .dropped _ ((busy_iff s).1 hb)
    · exact .refused c ((busy_eq_false s).1 hb) hi hd
    · exact .accepted op sel ((busy_eq_false s).1 hb) hi hd
  · refine .ignored ?_
    rcases hi with rfl | hi | ⟨rfl, -⟩
    · decide
    · omega
    · decide

/-- Everything an answered step can do to the core: a reset, the completion of a command, one bus write, or nothing. -/
theorem step_core_cases {s t : State} (h : step s = .next t) :
    (mover s = .reset ∧ t = resetCore (takeTurn s))
    ∨ (∃ i, Completes s i ∧ exec i (takeTurn s) = .next t)
    ∨ (∃ idx v u, HostAccesses s (.write idx v) ∧ SameCore s u ∧ WriteEffect idx v u t)
    ∨ (Quiet s ∧ SameCore s t) := by
  rcases step_next h with ⟨hm, hh⟩ | ⟨hm, he⟩ | hr
  · have hquiet (hw : ∀ idx v, hostAccess s ≠ some (.write idx v)) : Quiet s :=
      ⟨by simp [hm], by simp [Completes, hm], fun idx v ha => hw idx v ha.2⟩
    rcases hostStep_next hh with ⟨hp, rfl⟩ | ⟨a, ha, ht⟩
    · refine .inr (.inr (.inr ⟨hquiet ?_, sameCore_takeTurn s⟩))
      have hp : s.program = [] := hp
      simp [hostAccess, hp]
    · have hacc : ∃ u, SameCore s u ∧ t = busAccess a u := by
        rcases ht with rfl | ⟨-, -, rfl⟩
        · exact ⟨_, sameCore_dropOp_takeTurn s, rfl⟩
        · exact ⟨_, sameCore_takeTurn s, rfl⟩
      obtain ⟨u, hu, rfl⟩ := hacc
      rw [hostAccess_takeTurn] at ha
      cases a with
      | read idx => exact .inr (.inr (.inr ⟨hquiet (by simp [ha]), hu.logRead _⟩))
      | write idx v => exact .inr (.inr (.inl ⟨idx, v, u, ⟨hm, ha⟩, hu, busWrite_effect idx v u⟩))
  · rcases engineStep_next he with ⟨hp, rfl⟩ | ⟨i, hp, hx⟩
    · have hp : s.pending = none := hp
      exact .inr (.inr (.inr ⟨⟨by simp [hm], by simp [Completes, hp], by simp [HostAccesses, hm]⟩,
        sameCore_takeTurn s⟩))
    · exact .inr (.inl ⟨i, ⟨hm, hp⟩, hx⟩)
  · exact .inl hr

/-! ### What a completing command and a bus write do to SKV, DIN and DOUT -/

theorem exec_skv {i : Instr} {s t : State} (h : exec i s = .next t) :
    t.skv = if i = .derive then true else if i = .zeroize then false else s.skv := by
  split_ifs with hd hz
  · subst hd; cases h; rfl
  · subst hz; cases h; rfl
  · obtain ⟨-, -, -, -, hskv, -⟩ := exec_keeps_operands h hd hz
    exact hskv

theorem exec_keeps_din {i : Instr} {s t : State} (h : exec i s = .next t) (hz : i ≠ .zeroize) :
    t.din = s.din := by
  by_cases hd : i = .derive
  · subst hd; cases h; rfl
  · obtain ⟨-, -, -, -, -, hdin⟩ := exec_keeps_operands h hd hz
    exact hdin

theorem exec_keeps_dout {i : Instr} {s t : State} (h : exec i s = .next t) (hi : i = .nop ∨ i = .derive) :
    t.dout = s.dout := by
  rcases hi with rfl | rfl <;> cases h <;> rfl

/-- The index of KEY or of a subkey is at most 3. -/
theorem subkey_index_le (i : Fin 3) : (BitVec.ofNat 4 (i.val + 1)).toNat ≤ 3 := by
  revert i; decide

/-- A bus write clears SKV exactly when it is an accepted write of KEY or a subkey (R30). -/
theorem WriteEffect.skv_eq {idx : BitVec 4} {v : Word} {s t : State} (h : WriteEffect idx v s t) :
    t.skv = if idx.toNat ≤ 3 ∧ s.pending = none then false else s.skv := by
  cases h with
  | dropped c hbusy => simp [hbusy]
  | key hidle hidx => simp [hidle, hidx]
  | sk i hidle hidx => simp only [setSk_skv, hidx, subkey_index_le, hidle, and_self, if_true]
  | din hidle hidx | errorCleared hidx | refused c hidle hidx | accepted op sel hidle hidx => simp [hidx]
  | ignored hidx => rw [if_neg (by omega)]

/-- A bus write that changes DIN is an accepted write of DIN (R24, R58). -/
theorem WriteEffect.of_din_ne {idx : BitVec 4} {v : Word} {s t : State} (h : WriteEffect idx v s t)
    (hne : t.din ≠ s.din) : idx = 4 ∧ s.pending = none ∧ t.din = v := by
  cases h with
  | din hidle hidx => exact ⟨hidx, hidle, rfl⟩
  | dropped | key | sk | errorCleared | refused | accepted | ignored => simp at hne

/-- No bus write changes DOUT (R25, R60). -/
theorem WriteEffect.dout_eq {idx : BitVec 4} {v : Word} {s t : State} (h : WriteEffect idx v s t) :
    t.dout = s.dout := by
  cases h <;> simp

/-! ### The writers of SKV, DIN and DOUT -/

/-- Settles O51: SKV after each thing a step can do to the core, by `exec_skv` and `WriteEffect.skv_eq`. -/
theorem skvWriters : Obligations.SkvWriters := by
  intro s t h
  rcases step_core_cases h with ⟨hm, rfl⟩ | ⟨i, hc, hx⟩ | ⟨idx, v, u, hw, hu, he⟩ | ⟨hq, hs⟩
  · simp [Completes, hm, State.reset]
  · have hiff (j : Instr) : Completes s j ↔ i = j := ⟨hc.eq, fun h => h ▸ hc⟩
    obtain ⟨hm, -⟩ := hc
    simp only [hiff, HostAccesses, hm, exec_skv hx, takeTurn_skv]
    by_cases hd : i = .derive
    · simp [hd]
    · by_cases hz : i = .zeroize <;> simp [hd, hz]
  · obtain ⟨program, turns, reads, rfl⟩ := hu
    have hm : mover s = .host := hw.1
    rw [he.skv_eq]
    have hwrites : (∃ idx v, idx.toNat ≤ 3 ∧ s.pending = none ∧ HostAccesses s (.write idx v))
        ↔ idx.toNat ≤ 3 ∧ s.pending = none := by
      refine ⟨fun ⟨idx', v', hk, hidle, hw'⟩ => ?_, fun ⟨hk, hidle⟩ => ⟨idx, v, hk, hidle, hw⟩⟩
      obtain ⟨rfl, -⟩ := BusAccess.write.inj (hw.eq hw')
      exact ⟨hk, hidle⟩
    simp only [Completes, hm, hwrites]
    split_ifs with hk <;> simp [hk]
  · obtain ⟨program, turns, reads, rfl⟩ := hs
    simp +contextual [hq.not_reset, hq.not_completes, hq.not_writes]

/-- Settles O52: of the things a step can do to the core, those that change DIN. -/
theorem dinWriters : Obligations.DinWriters := by
  intro s t h hne
  rcases step_core_cases h with ⟨hm, -⟩ | ⟨i, hc, hx⟩ | ⟨idx, v, u, hw, ⟨_, _, _, rfl⟩, he⟩ | ⟨-, ⟨_, _, _, rfl⟩⟩
  · exact .inl hm
  · have hz : i = .zeroize := by_contra fun hz => absurd (exec_keeps_din hx hz) hne
    exact .inr (.inl (hz ▸ hc))
  · obtain ⟨rfl, hidle, hv⟩ := he.of_din_ne hne
    exact .inr (.inr ⟨v, hidle, hw, hv⟩)
  · exact absurd rfl hne

/-- Settles O53: of the things a step can do to the core, those that change DOUT; no bus write does (`WriteEffect.dout_eq`). -/
theorem doutWriters : Obligations.DoutWriters := by
  intro s t h hne
  rcases step_core_cases h with ⟨hm, -⟩ | ⟨i, hc, hx⟩ | ⟨idx, v, u, -, ⟨_, _, _, rfl⟩, he⟩ | ⟨-, ⟨_, _, _, rfl⟩⟩
  · exact .inl hm
  · exact .inr ⟨i, hc, not_or.1 fun hi => absurd (exec_keeps_dout hx hi) hne⟩
  · exact absurd he.dout_eq hne
  · exact absurd rfl hne

end Sys2Proof.Machine

/-! ## The invariants (R26, R28, R30, R34, R260) -/

namespace Sys2Proof.Machine

theorem causeCode_range (c : ErrCause) : 1 ≤ (causeCode c).toNat ∧ (causeCode c).toNat ≤ 4 := by
  cases c <;> decide

theorem ErrcodeMatches.congr {s t : State} (h : ErrcodeMatches s) (herr : t.err = s.err)
    (hcode : t.errcode = s.errcode) : ErrcodeMatches t := by
  simpa only [ErrcodeMatches, herr, hcode] using h

/-- A first error records a code of 1 to 4, and a later one leaves the code that stands (R262). -/
theorem ErrcodeMatches.raiseError {s : State} (h : ErrcodeMatches s) (c : ErrCause) :
    ErrcodeMatches (raiseError c s) := by
  unfold ErrcodeMatches at *
  cases hs : s.err
  · simpa [hs] using causeCode_range c
  · simpa [hs] using h

/-- An operation that leaves KEY, SK0-SK2 and SKV alone keeps SKV honest. -/
theorem SkvHonest.congr {s t : State} (h : SkvHonest s) (hkey : t.key = s.key) (hsk : subkeys t = subkeys s)
    (hskv : t.skv = s.skv) : SkvHonest t := by
  simpa only [SkvHonest, hkey, hsk, hskv] using h

/-- With no command pending, PENDING and DONE agree whatever they were before. -/
theorem CoreInv.of_idle {t : State} (hidle : t.pending = none) (herr : ErrcodeMatches t) (hskv : SkvHonest t) :
    CoreInv t where
  pendingLegal := by simp [PendingLegal, hidle]
  busyNotDone h := absurd hidle h
  errcodeMatches := herr
  skvHonest := hskv

theorem coreInv_reset : CoreInv State.reset :=
  .of_idle rfl (by simp [ErrcodeMatches, State.reset]) (by simp [SkvHonest, State.reset])

/-- Settles O3: at reset nothing is pending, and ERR, ERRCODE and SKV are 0. -/
theorem resetMeetsInv : Obligations.ResetMeetsInv := coreInv_reset

theorem CoreInv.of_sameCore {s t : State} (h : CoreInv s) (hst : SameCore s t) : CoreInv t := by
  obtain ⟨_, _, _, rfl⟩ := hst
  exact ⟨h.pendingLegal, h.busyNotDone, h.errcodeMatches, h.skvHonest⟩

/-- A completing command keeps SKV honest: DERIVE makes it so, ZEROIZE clears it, the others touch nothing it speaks of. -/
theorem SkvHonest.exec {i : Instr} {s t : State} (h : SkvHonest s) (hx : exec i s = .next t) : SkvHonest t := by
  by_cases hd : i = .derive
  · subst hd; cases hx
    exact fun _ => rfl
  by_cases hz : i = .zeroize
  · simp [SkvHonest, exec_skv hx, hz]
  obtain ⟨hkey, h0, h1, h2, hskv, -⟩ := exec_keeps_operands hx hd hz
  exact h.congr hkey (by simp [subkeys, h0, h1, h2]) hskv

theorem CoreInv.exec {i : Instr} {s t : State} (h : CoreInv s) (hx : exec i s = .next t) : CoreInv t := by
  obtain ⟨t', hx', hidle, -, herr, hcode, -⟩ := exec_frame i s
  obtain rfl : t' = t := Host.Outcome.next.inj (hx'.symm.trans hx)
  exact .of_idle hidle (h.errcodeMatches.congr herr hcode) (h.skvHonest.exec hx)

theorem CoreInv.writeEffect {idx : BitVec 4} {v : Word} {s t : State} (h : CoreInv s)
    (he : WriteEffect idx v s t) : CoreInv t := by
  obtain ⟨hpend, hdone, herr, hskv⟩ := h
  cases he with
  | dropped c hbusy =>
    exact ⟨by simpa [PendingLegal] using hpend, by simpa [BusyNotDone] using hdone, herr.raiseError c,
      hskv.congr (by simp) (by simp [subkeys]) (by simp)⟩
  | key hidle hidx => exact .of_idle hidle herr (by simp [SkvHonest])
  | sk i hidle hidx => exact .of_idle hidle herr (by simp [SkvHonest])
  | din hidle hidx => exact .of_idle hidle herr hskv
  | errorCleared hidx => exact ⟨hpend, hdone, by simp [ErrcodeMatches], hskv⟩
  | refused c hidle hidx =>
    exact .of_idle (by simpa using hidle) ((herr.raiseError c).congr rfl rfl)
      (hskv.congr (by simp) (by simp [subkeys]) (by simp))
  | accepted op sel hidle hidx hlegal =>
    obtain ⟨-, -, -, hwf⟩ := (decode_eq_legal v op sel).1 hlegal
    exact ⟨by simpa [PendingLegal] using hwf, fun _ => rfl, herr, hskv⟩
  | ignored hidx => exact ⟨hpend, hdone, herr, hskv⟩

/-- Settles O4: each thing a step can do to the core keeps the invariants. -/
theorem stepKeepsInv : Obligations.StepKeepsInv := by
  intro s t h hst
  rcases step_core_cases hst with ⟨-, rfl⟩ | ⟨i, -, hx⟩ | ⟨idx, v, u, -, hu, he⟩ | ⟨-, hs⟩
  · exact coreInv_reset.of_sameCore ⟨_, _, _, rfl⟩
  · exact (h.of_sameCore (sameCore_takeTurn s)).exec hx
  · exact (h.of_sameCore hu).writeEffect he
  · exact h.of_sameCore hs

end Sys2Proof.Machine

/-! ## Bus accesses: what a read returns (R53) -/

namespace Sys2Proof.Machine

theorem regAt_reserved {idx : BitVec 4} (h : 8 ≤ idx.toNat) : regAt idx = .reserved := by
  revert idx; decide

/-- Appending a word of `n` bits on the right moves the left one up by `2 ^ n`. -/
theorem toNat_append_eq_mul_add {m n : Nat} (x : BitVec m) (y : BitVec n) :
    (x ++ y).toNat = x.toNat * 2 ^ n + y.toNat := by
  rw [BitVec.toNat_append, ← Nat.shiftLeft_add_eq_or_of_lt y.isLt, Nat.shiftLeft_eq]

/-- The STATUS word as a number: the fields of R26 at their weights. -/
theorem statusWord_toNat (s : State) :
    (statusWord s).toNat
      = s.errcode.toNat * 256 + s.skv.toNat * 8 + s.err.toNat * 4 + s.done.toNat * 2 + (busy s).toNat := by
  have herrcode : s.errcode.toNat < 8 := s.errcode.isLt
  have hskv := Bool.toNat_lt s.skv
  have herr := Bool.toNat_lt s.err
  have hdone := Bool.toNat_lt s.done
  have hbusy := Bool.toNat_lt (busy s)
  simp only [statusWord, BitVec.toNat_setWidth, toNat_append_eq_mul_add, BitVec.toNat_ofBool,
    BitVec.toNat_ofNat]
  omega

/-- CMD and the reserved indices read as 0 (R53). -/
theorem busRead_of_le {idx : BitVec 4} (h : 7 ≤ idx.toNat) (s : State) : busRead idx s = 0 := by
  rcases h.eq_or_lt with h7 | h8
  · obtain rfl : idx = 7 := BitVec.eq_of_toNat_eq h7.symm
    rfl
  · rw [busRead, regAt_reserved h8]

theorem SameCore.sameButError {s t : State} (h : SameCore s t) : SameButError s t := by
  obtain ⟨_, _, _, rfl⟩ := h
  exact ⟨rfl, rfl, rfl, rfl, rfl, rfl, rfl, rfl, rfl⟩

/-- Settles O7: each index by evaluation but STATUS (`statusWord_toNat`) and 7 to 15; a read only extends the read log. -/
theorem busReadReturns : Obligations.BusReadReturns := by
  refine ⟨fun s => ⟨rfl, rfl, rfl, rfl, rfl, rfl, statusWord_toNat s, fun idx h => busRead_of_le h s⟩, fun s idx => ?_⟩
  exact ⟨SameCore.sameButError ⟨_, _, _, rfl⟩, rfl, rfl⟩

end Sys2Proof.Machine

/-! ## Bus accesses: what a write does (R54-R62) -/

namespace Sys2Proof.Machine

theorem raiseError_eq (c : ErrCause) (s : State) :
    raiseError c s = { s with err := true, errcode := if s.err then s.errcode else causeCode c } := by
  apply State.ext_fields <;> simp

theorem refuse_eq (c : ErrCause) (s : State) :
    refuse c s = { s with err := true, errcode := if s.err then s.errcode else causeCode c, done := true } := by
  rw [refuse, raiseError_eq]

/-- A guarded write as one conditional: what is recorded while BUSY, else its effect (R56-R58, R262). -/
theorem writeUnlessBusy_eq (f : State → State) (s : State) :
    writeUnlessBusy f s =
      if s.pending.isSome then { s with err := true, errcode := if s.err then s.errcode else 4 } else f s := by
  rcases writeUnlessBusy_cases f s with ⟨hb, h⟩ | ⟨hb, h⟩ <;> rw [h]
  · exact (raiseError_eq _ s).trans (if_pos hb).symm
  · exact (if_neg (Bool.eq_false_iff.1 hb)).symm

/-- Index `i + 1` is the register of subkey `i` (R21). -/
theorem regAt_subkey (i : Fin 3) : regAt (BitVec.ofNat 4 (i.val + 1)) = .sk i := by
  revert i; decide

theorem busWrite_subkey (i : Fin 3) (v : Word) (s : State) :
    busWrite (BitVec.ofNat 4 (i.val + 1)) v s = writeUnlessBusy (setSk i v) s := by
  rw [busWrite, regAt_subkey]

/-- Settles O8: KEY is written through the BUSY guard. -/
theorem keyWrite : Obligations.KeyWrite := fun s v => writeUnlessBusy_eq (setKey v) s

/-- Settles O9: index `n + 1` writes subkey `n` through the BUSY guard. -/
theorem subkeyWrite : Obligations.SubkeyWrite := by
  intro s v n
  rw [busWrite_subkey, writeUnlessBusy_eq]
  simp only [setSk, Fin.ext_iff, Fin.val_zero, Fin.val_one, Fin.val_two]

/-- Settles O10: DIN is written through the BUSY guard. -/
theorem dinWrite : Obligations.DinWrite := fun s v => writeUnlessBusy_eq (setDin v) s

/-- Settles O11: DOUT is index 5, and 8 to 15 are reserved. -/
theorem ignoredWrites : Obligations.IgnoredWrites := by
  rintro s v idx (h5 | h8)
  · obtain rfl : idx = 5 := BitVec.eq_of_toNat_eq h5
    rfl
  · rw [busWrite, regAt_reserved h8]

/-- Settles O12: bit 2 of the value, as a number, is what `busWrite_status` tests. -/
theorem statusWrite : Obligations.StatusWrite := by
  intro s v
  have hbit : v.getLsbD 2 = true ↔ v.toNat / 4 % 2 = 1 := by
    rw [BitVec.getLsbD, Nat.testBit_eq_decide_div_mod_eq, decide_eq_true_iff]
  simp only [busWrite_status, hbit, clearError]

theorem busWrite_cmd (w : Word) (s : State) : busWrite 7 w s = offerCmd w s := rfl

/-- Settles O13: the three outcomes of a word offered as a command (`offerCmd_cases`). -/
theorem cmdWrite : Obligations.CmdWrite := by
  refine ⟨fun s w => ?_, rfl, rfl⟩
  rw [busWrite_cmd]
  rcases offerCmd_cases w s with ⟨hb, h⟩ | ⟨hb, c, hd, h⟩ | ⟨hb, op, sel, hd, h⟩ <;> rw [h]
  · exact (raiseError_eq _ s).trans (if_pos hb).symm
  · rw [hd]
    exact (refuse_eq c s).trans (if_neg (Bool.eq_false_iff.1 hb)).symm
  · rw [hd]
    exact (if_neg (Bool.eq_false_iff.1 hb)).symm

/-- While a command is pending a bus write changes nothing of the core but its error record (R54, R74). -/
theorem WriteEffect.sameButError {idx : BitVec 4} {v : Word} {s t : State} (h : WriteEffect idx v s t)
    (hbusy : s.pending ≠ none) : SameButError s t := by
  cases h with
  | dropped c | errorCleared hidx | ignored hidx => simp [SameButError]
  | key hidle | sk i hidle | din hidle | refused c hidle | accepted op sel hidle => exact absurd hidle hbusy

/-- Settles O16: of the things a step can do to the core, the host does no reset and completes nothing, and its writes
meet a pending command. -/
theorem busyFreezesRegisters : Obligations.BusyFreezesRegisters := by
  intro s t hbusy hm h
  rcases step_core_cases h with ⟨hr, -⟩ | ⟨i, ⟨he, -⟩, -⟩ | ⟨idx, v, u, -, ⟨_, _, _, rfl⟩, hw⟩ | ⟨-, hs⟩
  · exact absurd (hm.symm.trans hr) (by decide)
  · exact absurd (hm.symm.trans he) (by decide)
  · exact hw.sameButError hbusy
  · exact hs.sameButError

end Sys2Proof.Machine

/-! ## The host's step: one access, or a refusal (R50, R52, R65) -/

namespace Sys2Proof.Machine

theorem step_of_mover_host {s : State} (h : mover s = .host) : step s = hostStep (takeTurn s) := by
  simp only [step, h]

/-- A host whose program has ended does nothing. -/
theorem hostStep_of_program_nil {s : State} (h : s.program = []) : hostStep s = .next s := by
  simp only [hostStep, h]

theorem HostMoves.exists_program_eq {s : State} {op : HostOp} (h : HostMoves s op) :
    ∃ rest, s.program = op :: rest :=
  List.head?_eq_some_iff.1 h.2

theorem HostMoves.step_bus {s : State} {a : BusAccess} (h : HostMoves s (.bus a)) :
    step s = .next (busAccess a (dropOp (takeTurn s))) := by
  obtain ⟨rest, hp⟩ := h.exists_program_eq
  simp only [step_of_mover_host h.1, hostStep, takeTurn_program, hp]

/-- A byte request the bridge can carry is the access it carries it as (R50). -/
theorem HostMoves.step_request_ok {s : State} {r : ByteRequest} {a : BusAccess} (h : HostMoves s (.request r))
    (hb : bridge Config.baseAddr r = .ok a) : step s = .next (busAccess a (dropOp (takeTurn s))) := by
  obtain ⟨rest, hp⟩ := h.exists_program_eq
  simp only [step_of_mover_host h.1, hostStep, takeTurn_program, hp, hb]

/-- A byte request the bridge cannot carry stops the model (R65). -/
theorem HostMoves.step_request_error {s : State} {r : ByteRequest} {e : Refusal} (h : HostMoves s (.request r))
    (hb : bridge Config.baseAddr r = .error e) : step s = .refused e := by
  obtain ⟨rest, hp⟩ := h.exists_program_eq
  simp only [step_of_mover_host h.1, hostStep, takeTurn_program, hp, hb]

/-- A read sees only the core, so the environment's lists do not change its value (R53). -/
theorem SameCore.busRead_eq {s t : State} (h : SameCore s t) (idx : BitVec 4) : busRead idx t = busRead idx s := by
  obtain ⟨_, _, _, rfl⟩ := h
  rfl

/-- Settles O6: `HostMoves.step_bus`, and for a read that its value is the one before the operation is used up. -/
theorem hostStepMakesAccess : Obligations.HostStepMakesAccess := by
  refine ⟨fun s idx h => ?_, fun s idx v h => h.step_bus, fun s hm hp => ?_⟩
  · rw [h.step_bus, busAccess, (sameCore_dropOp_takeTurn s).busRead_eq]
    rfl
  · exact (step_of_mover_host hm).trans (hostStep_of_program_nil hp)

theorem bridge_of_size_ne {base : Nat} {r : ByteRequest} (h : r.size ≠ 4) : bridge base r = .error .accessWidth :=
  if_pos h

theorem bridge_of_misaligned {base : Nat} {r : ByteRequest} (hsize : r.size = 4) (h : r.addr % 4 ≠ 0) :
    bridge base r = .error .accessMisaligned := by
  rw [bridge, if_neg (not_not.2 hsize), if_pos h]

/-- Settles O14: the bridge tests the width first and the alignment next (log entry 7). -/
theorem unalignedOrNarrowRefused : Obligations.UnalignedOrNarrowRefused := fun _ _ h =>
  ⟨fun hsize => h.step_request_error (bridge_of_size_ne hsize),
    fun hsize haddr => h.step_request_error (bridge_of_misaligned hsize haddr)⟩

theorem baseAddr_mod : Config.baseAddr % 64 = 0 := Nat.mul_mod_right 64 _

/-- A whole word at `base + 4 * idx` passes the bridge's tests, as an access of index `idx` (R50). -/
theorem bridge_word {base : Nat} (hbase : base % 64 = 0) (idx : BitVec 4) (d : Word) :
    bridge base ⟨.load, base + 4 * idx.toNat, 4, d⟩ = .ok (.read idx)
    ∧ bridge base ⟨.store, base + 4 * idx.toNat, 4, d⟩ = .ok (.write idx d) := by
  have hidx : idx.toNat < 16 := idx.isLt
  have haligned : (base + 4 * idx.toNat) % 4 = 0 := by omega
  have hwindow : ¬ (base + 4 * idx.toNat < base ∨ base + 64 ≤ base + 4 * idx.toNat) := by omega
  have hword : BitVec.ofNat 4 ((base + 4 * idx.toNat - base) / 4) = idx := by
    rw [Nat.add_sub_cancel_left, Nat.mul_div_cancel_left _ (by decide), BitVec.ofNat_toNat, BitVec.setWidth_eq]
  constructor <;> simp only [bridge, haligned, hwindow, hword, ne_eq, not_true_eq_false, if_false]

/-- Settles O15: the bridge turns the word's address into its index. -/
theorem windowAddresses : Obligations.WindowAddresses := by
  refine ⟨baseAddr_mod, fun s idx d => ?_⟩
  obtain ⟨hload, hstore⟩ := bridge_word baseAddr_mod idx d
  exact ⟨fun h => h.step_request_ok hload, fun h => h.step_request_ok hstore⟩

end Sys2Proof.Machine

/-! ## Command words: decoding and encoding agree (R80, R83, R92, R94) -/

namespace Sys2Proof

theorem fieldsOf_wordOf (f : CmdFields) : fieldsOf (wordOf f) = f := by
  obtain ⟨op, sel, rsv⟩ := f
  have hop : op.toNat < 2 ^ 4 := op.isLt
  have hsel : sel.toNat < 2 ^ 2 := sel.isLt
  have hrsv : rsv.toNat < 2 ^ 26 := rsv.isLt
  simp only [fieldsOf, wordOf, CmdFields.mk.injEq, ← BitVec.toNat_inj, BitVec.extractLsb'_toNat,
    Nat.shiftRight_eq_div_pow, Machine.toNat_append_eq_mul_add]
  omega

/-- Cutting a word into fields and joining fields into a word are inverse to each other. -/
theorem fieldsOf_eq_iff {w : Word} {f : CmdFields} : fieldsOf w = f ↔ w = wordOf f :=
  ⟨fun h => h ▸ (wordOf_fieldsOf w).symm, fun h => h ▸ fieldsOf_wordOf f⟩

/-- A word is legal as a pair when the pair's fields are its own and are well formed. -/
theorem decode_eq_legal_iff_fieldsOf {w : Word} {op : BitVec 4} {sel : BitVec 2} :
    decode w = .legal op sel ↔ fieldsOf w = ⟨op, sel, 0⟩ ∧ CmdFields.WellFormed ⟨op, sel, 0⟩ := by
  rw [decode_eq_legal]
  generalize fieldsOf w = f
  obtain ⟨fop, fsel, frsv⟩ := f
  simp only [CmdFields.mk.injEq, and_assoc, eq_comm]

@[simp] theorem pairInstr_instrOp_instrSel (i : Instr) : pairInstr (instrOp i) (instrSel i) = some i :=
  (pairInstr_eq_some _ _ i).2 ⟨rfl, rfl⟩

theorem wellFormed_instr (i : Instr) : CmdFields.WellFormed ⟨instrOp i, instrSel i, 0⟩ :=
  (pairInstr_isSome _ _).1 (by simp)

theorem exists_instr_of_wellFormed {op : BitVec 4} {sel : BitVec 2} (h : CmdFields.WellFormed ⟨op, sel, 0⟩) :
    ∃ i, op = instrOp i ∧ sel = instrSel i := by
  obtain ⟨i, hi⟩ := Option.isSome_iff_exists.1 ((pairInstr_isSome op sel).2 h)
  exact ⟨i, (pairInstr_eq_some op sel i).1 hi⟩

theorem decodeInstr_eq_some_iff_eq_encode (w : Word) (i : Instr) : decodeInstr w = some i ↔ w = encode i :=
  calc decodeInstr w = some i
    _ ↔ decode w = .legal (instrOp i) (instrSel i) := decodeInstr_eq_some w i
    _ ↔ fieldsOf w = ⟨instrOp i, instrSel i, 0⟩ :=
      decode_eq_legal_iff_fieldsOf.trans (and_iff_left (wellFormed_instr i))
    _ ↔ w = encode i := fieldsOf_eq_iff

theorem decode_legal_iff_exists_encode (w : Word) : (∃ op sel, decode w = .legal op sel) ↔ ∃ i, w = encode i := by
  simp only [← decodeInstr_eq_some_iff_eq_encode, decodeInstr_eq_some]
  constructor
  · rintro ⟨op, sel, h⟩
    obtain ⟨i, rfl, rfl⟩ := exists_instr_of_wellFormed (decode_eq_legal_iff_fieldsOf.1 h).2
    exact ⟨i, h⟩
  · rintro ⟨i, h⟩
    exact ⟨_, _, h⟩

/-- Settles O19: a word is its fields, and a legal pair is the opcode and selector of one command. -/
theorem decodeIffEncode : Obligations.DecodeIffEncode :=
  ⟨decodeInstr_eq_some_iff_eq_encode, decode_legal_iff_exists_encode⟩

@[simp] theorem decodeInstr_encode (i : Instr) : decodeInstr (encode i) = some i :=
  (decodeInstr_eq_some_iff_eq_encode _ i).2 rfl

theorem encode_injective : Function.Injective encode := fun i j h => by
  simpa using congrArg decodeInstr h

/-- Settles O17: the table's words are the encodings, evaluated. -/
theorem specWordsDecode : Obligations.SpecWordsDecode := by
  unfold Obligations.SpecWordsDecode
  decide

end Sys2Proof

/-! ## `decode` by arithmetic on the word (R80, R83) -/

namespace Sys2Proof

theorem fieldsOf_op_toNat (w : Word) : (fieldsOf w).op.toNat = w.toNat % 16 := by
  simp [fieldsOf]

theorem fieldsOf_sel_toNat (w : Word) : (fieldsOf w).sel.toNat = w.toNat / 16 % 4 := by
  simp [fieldsOf, Nat.shiftRight_eq_div_pow]

theorem fieldsOf_rsv_toNat (w : Word) : (fieldsOf w).rsv.toNat = w.toNat / 64 := by
  have hw : w.toNat < 2 ^ 32 := w.isLt
  simp only [fieldsOf, BitVec.extractLsb'_toNat, Nat.shiftRight_eq_div_pow]
  omega

theorem opReserved_iff (op : BitVec 4) : opReserved op = true ↔ 10 ≤ op.toNat ∧ op.toNat ≤ 14 := by
  simp [opReserved]

/-- The test on a stage command's selector (R81, R83). -/
theorem stageSel_test_iff (op : BitVec 4) (sel : BitVec 2) :
    (opUsesSel op && sel == 3) = true ↔ 4 ≤ op.toNat ∧ op.toNat ≤ 9 ∧ sel.toNat = 3 := by
  revert op sel
  decide

/-- The test on any other command's selector, its opcode not a reserved one (R81, R83). -/
theorem unusedSel_test_iff {op : BitVec 4} (hop : ¬ (10 ≤ op.toNat ∧ op.toNat ≤ 14)) (sel : BitVec 2) :
    (!opUsesSel op && sel != 0) = true ↔ (op.toNat ≤ 3 ∨ op.toNat = 15) ∧ sel.toNat ≠ 0 := by
  revert op sel
  decide

/-- The commands, in the order of R94's table. -/
def commands : List Instr :=
  [.nop, .derive, .encrypt, .decrypt, .subSk0, .subSk1, .subSk2, .subinvSk0, .subinvSk1, .subinvSk2,
    .permSk0, .permSk1, .permSk2, .perminvSk0, .perminvSk1, .perminvSk2, .roundSk0, .roundSk1, .roundSk2,
    .roundinvSk0, .roundinvSk1, .roundinvSk2, .zeroize]

@[simp] theorem mem_commands (i : Instr) : i ∈ commands := by
  cases i <;> decide

theorem commands_nodup : commands.Nodup := by decide

theorem mem_map_encode_commands (w : Word) :
    w ∈ commands.map encode ↔ ∃ op sel, decode w = .legal op sel := by
  simp only [List.mem_map, mem_commands, true_and, decode_legal_iff_exists_encode, eq_comm]

/-- The tests of `decode`, in its order, by the numbers of the three fields. -/
theorem decode_eq_ite (w : Word) :
    decode w =
      if 10 ≤ w.toNat % 16 ∧ w.toNat % 16 ≤ 14 then .illegal .illegalOpcode
      else if w.toNat / 64 ≠ 0 then .illegal .reservedField
      else if 4 ≤ w.toNat % 16 ∧ w.toNat % 16 ≤ 9 ∧ w.toNat / 16 % 4 = 3 then .illegal .reservedField
      else if (w.toNat % 16 ≤ 3 ∨ w.toNat % 16 = 15) ∧ w.toNat / 16 % 4 ≠ 0 then .illegal .reservedField
      else .legal (BitVec.ofNat 4 (w.toNat % 16)) (BitVec.ofNat 2 (w.toNat / 16 % 4)) := by
  simp only [← fieldsOf_op_toNat, ← fieldsOf_sel_toNat, ← fieldsOf_rsv_toNat, BitVec.ofNat_toNat, BitVec.setWidth_eq]
  unfold decode
  generalize fieldsOf w = f
  by_cases hop : 10 ≤ f.op.toNat ∧ f.op.toNat ≤ 14
  · exact (if_pos ((opReserved_iff f.op).2 hop)).trans (if_pos hop).symm
  · have hrsv : f.rsv ≠ 0 ↔ f.rsv.toNat ≠ 0 := not_congr BitVec.toNat_inj.symm
    exact if_congr (opReserved_iff f.op) rfl <| if_congr hrsv rfl <|
      if_congr (stageSel_test_iff f.op f.sel) rfl <| if_congr (unusedSel_test_iff hop f.sel) rfl rfl

/-- Settles O18: `decode_eq_ite`, and that the legal words are the encodings of the 23 commands. -/
theorem decodeOrder : Obligations.DecodeOrder :=
  ⟨decode_eq_ite, commands.map encode, commands_nodup.map encode_injective, rfl, mem_map_encode_commands⟩

end Sys2Proof

/-! ## The life of a command: accepted, pending, run (R84, R86, R87, R88) -/

namespace Sys2Proof.Machine

/-- The two low fields of a word that stands for a command are the command's (R80). -/
theorem extractLsb'_of_decodeInstr {w : Word} {i : Instr} (h : decodeInstr w = some i) :
    (w.extractLsb' 0 4, w.extractLsb' 4 2) = (instrOp i, instrSel i) := by
  obtain ⟨hop, hsel, -⟩ := fields_of_decodeInstr h
  exact Prod.ext hop hsel

theorem decode_of_decodeInstr {w : Word} {i : Instr} (h : decodeInstr w = some i) :
    decode w = .legal (w.extractLsb' 0 4) (w.extractLsb' 4 2) := by
  obtain ⟨hop, hsel⟩ := Prod.mk.inj (extractLsb'_of_decodeInstr h)
  rw [hop, hsel, ← decodeInstr_eq_some, h]

theorem step_of_mover_engine {s : State} (h : mover s = .engine) : step s = engineStep (takeTurn s) := by
  simp only [step, h]

/-- A step that completes a command runs it, on the state with the turn used up (R87, R88). -/
theorem Completes.step_eq {s : State} {i : Instr} (h : Completes s i) : step s = exec i (takeTurn s) := by
  obtain ⟨hm, hp⟩ := h
  simp only [step_of_mover_engine hm, engineStep, takeTurn_pending, hp, pairInstr_instrOp_instrSel]

/-- Settles O20: the pair is the command's opcode and selector, so the step completes it. -/
theorem engineRunsPending : Obligations.EngineRunsPending := by
  intro s w i hw hp hm
  rw [extractLsb'_of_decodeInstr hw] at hp
  exact Completes.step_eq ⟨hm, hp⟩

/-- A legal word offered while nothing is pending is accepted (R84, R86). -/
theorem offerCmd_of_legal {s : State} {w : Word} {op : BitVec 4} {sel : BitVec 2} (hidle : s.pending = none)
    (hw : decode w = .legal op sel) : offerCmd w s = accept op sel s := by
  simp [offerCmd, (busy_eq_false s).2 hidle, hw]

/-- Settles O21: the write accepts the word, and the engine has the turn after it. -/
theorem writtenCommandRuns : Obligations.WrittenCommandRuns := by
  intro s w i ts hw hmoves hidle hturns
  have haccept : step s = .next (accept (w.extractLsb' 0 4) (w.extractLsb' 4 2) (dropOp (takeTurn s))) := by
    rw [hmoves.step_bus, busAccess, busWrite_cmd, offerCmd_of_legal (s := dropOp (takeTurn s)) hidle
      (decode_of_decodeInstr hw)]
  refine ⟨_, haccept, rfl, rfl, rfl, ?_⟩
  rw [engineRunsPending _ w i hw rfl (by simp [mover, hturns])]
  simp [hturns]

/-- Settles O22: the placed word is accepted and the engine moves next. -/
theorem placedWordRuns : Obligations.PlacedWordRuns := by
  intro s w i hw
  have hplaced : s.withFetchWord 32 w.toNat =
      { accept (w.extractLsb' 0 4) (w.extractLsb' 4 2) s with turns := .engine :: s.turns } := by
    have hword : BitVec.ofNat 32 (w.toNat % 2 ^ 32) = w := by
      rw [Nat.mod_eq_of_lt w.isLt, BitVec.ofNat_toNat, BitVec.setWidth_eq]
    simp only [State.withFetchWord, placeTableWord, hword, placeWord, decode_of_decodeInstr hw]
  rw [hplaced]
  exact engineRunsPending _ w i hw rfl rfl

end Sys2Proof.Machine

/-! ## The `wait` loop (R71, R93, R301) -/

namespace Sys2Proof.Machine

/-- One poll: STATUS is read, and the loop is left when BUSY reads 0 (R93). -/
theorem HostMoves.step_wait {s : State} (h : HostMoves s .wait) :
    step s = .next (logRead (statusWord s) (if busy s then takeTurn s else dropOp (takeTurn s))) := by
  obtain ⟨rest, hp⟩ := h.exists_program_eq
  have hbusy : (statusWord s).getLsbD 0 = busy s := getLsbD_statusWord s 0
  simp only [step_of_mover_host h.1, hostStep, takeTurn_program, hp, statusIdx, busAccess,
    (sameCore_takeTurn s).busRead_eq, busRead_status, hbusy]
  split_ifs <;> rfl

/-- `s` after `n` polls of a waiting host that read the same STATUS, with `ts` the turns left. -/
def polled (n : Nat) (ts : List Turn) (s : State) : State :=
  { s with turns := ts, reads := s.reads ++ List.replicate n (statusWord s) }

/-- While the command is pending, a waiting host's turns only lengthen its read log. -/
theorem run_wait_of_busy {s : State} {rest : List HostOp} {ts : List Turn} (hbusy : busy s = true)
    (hprog : s.program = .wait :: rest) (n k : Nat) (hturns : s.turns = List.replicate n .host ++ ts) :
    run (n + k) s = run k (polled n ts s) := by
  induction n generalizing s with
  | zero =>
    obtain rfl : s.turns = ts := hturns
    simp [polled]
  | succ n ih =>
    have hmoves : HostMoves s .wait := by simp [HostMoves, mover, hturns, hprog, List.replicate_succ]
    have hpoll : step s = .next (logRead (statusWord s) (takeTurn s)) := by
      rw [hmoves.step_wait, if_pos hbusy]
    have hrest := ih (s := logRead (statusWord s) (takeTurn s)) hbusy hprog (by simp [hturns, List.replicate_succ])
    rw [Nat.add_right_comm, run_succ hpoll, hrest]
    simp [polled, logRead, takeTurn, statusWord, busy, List.replicate_succ]

/-- A legal pending command is one of the 23. -/
theorem PendingLegal.exists_instr {s : State} (h : PendingLegal s) (hbusy : s.pending ≠ none) :
    ∃ i, s.pending = some (instrOp i, instrSel i) := by
  obtain ⟨⟨op, sel⟩, hp⟩ := Option.ne_none_iff_exists'.1 hbusy
  obtain ⟨i, rfl, rfl⟩ := exists_instr_of_wellFormed (h _ hp)
  exact ⟨i, hp⟩

/-- The engine's turn completes the command, and the host's turn after it leaves the loop (R87, R93). -/
theorem run_completion_then_wait {s : State} {i : Instr} {rest : List HostOp} {ts : List Turn}
    (hi : s.pending = some (instrOp i, instrSel i)) (hprog : s.program = .wait :: rest)
    (hturns : s.turns = .engine :: .host :: ts) :
    ∃ t v, run 2 s = .next t ∧ t.program = rest ∧ t.turns = ts ∧ t.pending = none
      ∧ t.reads = s.reads ++ [v] ∧ v.getLsbD 0 = false := by
  have hcompletes : Completes s i := ⟨by simp [mover, hturns], hi⟩
  obtain ⟨u, hexec, hidle, -, -, -, huprog, huturns, hureads⟩ := exec_frame i (takeTurn s)
  simp only [takeTurn_program, takeTurn_turns, takeTurn_reads, hprog, hturns, List.tail_cons]
    at huprog huturns hureads
  have hmoves : HostMoves u .wait := by simp [HostMoves, mover, huturns, huprog]
  have hbusy : busy u = false := (busy_eq_false u).2 hidle
  have hpoll : step u = .next (logRead (statusWord u) (dropOp (takeTurn u))) := by
    rw [hmoves.step_wait, hbusy]
    rfl
  refine ⟨_, statusWord u, (run_succ (hcompletes.step_eq.trans hexec) 1).trans (run_succ hpoll 0), ?_⟩
  exact ⟨by simp [huprog], by simp [huturns], hidle, by simp [hureads], (getLsbD_statusWord u 0).trans hbusy⟩

/-- Settles O24: `n` polls that read BUSY = 1, then the completion and the poll that reads BUSY = 0. -/
theorem waitEndsWithBusyClear : Obligations.WaitEndsWithBusyClear := by
  intro s n rest ts hlegal hpend hprog hturns
  have hbusy : busy s = true := (busy_iff s).2 hpend
  obtain ⟨i, hi⟩ := hlegal.exists_instr hpend
  obtain ⟨t, v, hrun, hprogram, hturns', hidle, hreads, hv⟩ :=
    run_completion_then_wait (s := polled n (.engine :: .host :: ts) s) hi hprog rfl
  refine ⟨t, List.replicate n (statusWord s), v, ?_, hprogram, hturns', hidle, hreads, List.length_replicate, ?_, hv⟩
  · exact (run_wait_of_busy hbusy hprog n 2 hturns).trans hrun
  · intro p hp
    rw [List.eq_of_mem_replicate hp]
    exact (getLsbD_statusWord s 0).trans hbusy

end Sys2Proof.Machine

/-! ## The subkey scheduler: rotation and subkeys bit by bit (R100, R101, R102, R104) -/

namespace Sys2Proof.Machine

theorem getLsbD_rotateLeft32 (x : Word) {n j : Nat} (hn : n < 32) (hj : j < 32) :
    (rotateLeft32 x n).getLsbD j = x.getLsbD ((j + 32 - n) % 32) := by
  by_cases h : n ≤ j
  · have hpos : (j + 32 - n) % 32 = j - n := by omega
    rw [getLsbD_rotateLeft32_of_le x n j hn hj h, hpos]
  · have hpos : (j + 32 - n) % 32 = 32 - n + j := by omega
    rw [getLsbD_rotateLeft32_of_lt x n j hj (by omega), hpos]

/-- Settles O26: `getLsbD_rotateLeft32`, which holds for `n = 0` too. -/
theorem rotateBits : Obligations.RotateBits := fun x _ _ _ hn hj =>
  getLsbD_rotateLeft32 x (Nat.lt_succ_of_le hn) hj

theorem getLsbD_subkey (k : Word) {i j : Nat} (hi : i < 3) (hj : j < 32) :
    (subkey k i).getLsbD j
      = (k.getLsbD ((j + 32 - (i + 1)) % 32) ^^ k.getLsbD ((j + 32 - (i + 1) * 3) % 32)) := by
  rw [subkey, BitVec.getLsbD_xor, getLsbD_rotateLeft32 k (by omega) hj, getLsbD_rotateLeft32 k (by omega) hj]

/-- Settles O25: `getLsbD_subkey` at the three rounds. -/
theorem deriveResult : Obligations.DeriveResult := by
  refine fun s => ⟨_, rfl, fun j hj => ⟨?_, ?_, ?_⟩, rfl⟩
  · exact getLsbD_subkey s.key (i := 0) (by decide) hj
  · exact getLsbD_subkey s.key (i := 1) (by decide) hj
  · exact getLsbD_subkey s.key (i := 2) (by decide) hj

end Sys2Proof.Machine

/-! ## The subkey scheduler: linearity and avalanche (R103) -/

namespace Sys2Proof.Machine

theorem subkey_xor (a b : Word) {i : Nat} (hi : i < 3) : subkey (a ^^^ b) i = subkey a i ^^^ subkey b i := by
  apply BitVec.eq_of_getLsbD_eq
  intro j hj
  simp only [BitVec.getLsbD_xor, getLsbD_subkey _ hi hj, Bool.xor_assoc, Bool.xor_left_comm]

theorem setBits_eq_card (x : Word) : setBits x = ((Finset.range 32).filter fun j => x.getLsbD j).card := by
  simp only [setBits, Finset.card_def, Finset.filter_val, Finset.range_val, Multiset.range, Multiset.filter_coe,
    Multiset.coe_card, Bool.decide_eq_true]

theorem setBits_eq_two {x : Word} {p q : Nat} (hpq : p ≠ q) (h : ∀ j, x.getLsbD j = true ↔ j = p ∨ j = q) :
    setBits x = 2 := by
  have hset : ((Finset.range 32).filter fun j => x.getLsbD j) = {p, q} := by
    ext j
    have hlt : x.getLsbD j = true → j < 32 := BitVec.lt_of_getLsbD
    simpa [← h j] using hlt
  rw [setBits_eq_card, hset, Finset.card_pair hpq]

/-- A one-bit key sets the two bits of each subkey that its bit is rotated to. -/
theorem getLsbD_subkey_one_shiftLeft {b i : Nat} (hb : b < 32) (hi : i < 3) (j : Nat) :
    (subkey (1#32 <<< b) i).getLsbD j = true
      ↔ j = (b + (i + 1)) % 32 ∨ j = (b + (i + 1) * 3) % 32 := by
  by_cases hj : j < 32
  · simp only [getLsbD_subkey _ hi hj, ← BitVec.twoPow_eq, BitVec.getLsbD_twoPow, hb, decide_true, Bool.true_and,
      bne_iff_ne, ne_eq, decide_eq_decide]
    omega
  · rw [BitVec.getLsbD_of_ge _ _ (Nat.not_lt.1 hj)]
    simp only [Bool.false_eq_true, false_iff]
    omega

/-- Settles O28: by linearity the subkeys differ by those of the one-bit key, whose two bits are `2 * (i + 1)` apart. -/
theorem scheduleLinearAndAvalanche : Obligations.ScheduleLinearAndAvalanche := by
  refine ⟨fun a b i hi => subkey_xor a b hi, fun k b i hb hi => ?_⟩
  have hdiff : subkey (k ^^^ (1#32 <<< b)) i ^^^ subkey k i = subkey (1#32 <<< b) i := by
    rw [subkey_xor _ _ hi, xor_xor_cancel_comm]
  rw [hdiff]
  exact setBits_eq_two (by omega) (getLsbD_subkey_one_shiftLeft hb hi)

end Sys2Proof.Machine

/-! ## The subkey scheduler: zero keys and equivalent keys (R103) -/

namespace Sys2Proof.Machine

/-- Every bit of `x` is that of its position's parity: `x` is fixed by a rotation by 2. -/
def PeriodTwo (x : Word) : Prop := ∀ j < 32, x.getLsbD j = x.getLsbD (j % 2)

theorem PeriodTwo.eq_of_low_bits {x y : Word} (hx : PeriodTwo x) (hy : PeriodTwo y)
    (h0 : x.getLsbD 0 = y.getLsbD 0) (h1 : x.getLsbD 1 = y.getLsbD 1) : x = y := by
  apply BitVec.eq_of_getLsbD_eq
  intro j hj
  rw [hx j hj, hy j hj]
  rcases Nat.mod_two_eq_zero_or_one j with h | h <;> rw [h]
  · exact h0
  · exact h1

/-- The four keys of R103. -/
theorem periodTwo_zeroKeys :
    PeriodTwo 0x00000000 ∧ PeriodTwo 0x55555555 ∧ PeriodTwo 0xAAAAAAAA ∧ PeriodTwo 0xFFFFFFFF := by
  unfold PeriodTwo
  decide

/-- There is one such word for each value of the two low bits. -/
theorem PeriodTwo.eq_zeroKey {x : Word} (h : PeriodTwo x) :
    x = 0x00000000 ∨ x = 0x55555555 ∨ x = 0xAAAAAAAA ∨ x = 0xFFFFFFFF := by
  obtain ⟨hzero, h5, hA, hF⟩ := periodTwo_zeroKeys
  cases h0 : x.getLsbD 0 <;> cases h1 : x.getLsbD 1
  · exact .inl (h.eq_of_low_bits hzero h0 h1)
  · exact .inr (.inr (.inl (h.eq_of_low_bits hA h0 h1)))
  · exact .inr (.inl (h.eq_of_low_bits h5 h0 h1))
  · exact .inr (.inr (.inr (h.eq_of_low_bits hF h0 h1)))

/-- Bit `j + 3` of subkey 0 compares the key's bits `j + 2` and `j`, so where it is zero they agree. -/
theorem periodTwo_of_subkey_zero {k : Word} (h : subkey k 0 = 0) : PeriodTwo k := by
  have hstep (j : Nat) (hj : j + 2 < 32) : k.getLsbD (j + 2) = k.getLsbD j := by
    have hbit := getLsbD_subkey k (i := 0) (by decide) (Nat.mod_lt (j + 3) (by decide : 0 < 32))
    have h2 : ((j + 3) % 32 + 32 - (0 + 1)) % 32 = j + 2 := by omega
    have h0 : ((j + 3) % 32 + 32 - (0 + 1) * 3) % 32 = j := by omega
    rw [h, h2, h0] at hbit
    simpa using hbit
  intro j
  induction j using Nat.twoStepInduction with
  | zero | one => intro _; rfl
  | more j ih _ =>
    intro hj
    rw [hstep j hj, ih (by omega), Nat.add_mod_right]

theorem deriveSubkeys_eq_zero_iff (k : Word) :
    deriveSubkeys k = ⟨0, 0, 0⟩ ↔ k = 0x00000000 ∨ k = 0x55555555 ∨ k = 0xAAAAAAAA ∨ k = 0xFFFFFFFF := by
  constructor
  · intro h
    exact (periodTwo_of_subkey_zero (congrArg SubkeySet.k0 h)).eq_zeroKey
  · rintro (rfl | rfl | rfl | rfl) <;> decide

theorem deriveSubkeys_eq_iff_xor (k k' : Word) :
    deriveSubkeys k = deriveSubkeys k' ↔ deriveSubkeys (k ^^^ k') = ⟨0, 0, 0⟩ := by
  simp [deriveSubkeys, subkey_xor, BitVec.xor_eq_zero_iff]

/-- Settles O27: the keys with zero subkeys, and by linearity the differences of keys with equal ones. -/
theorem scheduleKernel : Obligations.ScheduleKernel :=
  ⟨deriveSubkeys_eq_zero_iff, fun k k' =>
    (deriveSubkeys_eq_iff_xor k k').trans (deriveSubkeys_eq_zero_iff (k ^^^ k'))⟩

end Sys2Proof.Machine

/-! ## The S-box substitution (R120-R126) -/

namespace Sys2Proof.Machine

theorem sbox_toNat (b kb : Byte) : (sbox b kb).toNat = (b.toNat + kb.toNat) % 256 := BitVec.toNat_add b kb

theorem sboxInv_toNat (b kb : Byte) : (sboxInv b kb).toNat = (b.toNat + (256 - kb.toNat)) % 256 := by
  rw [sboxInv, BitVec.toNat_sub, Nat.add_comm]

/-- The inverse S-box is the difference's non-negative residue, over the integers (R10, R121). -/
theorem sboxInv_toInt (b kb : Byte) : ((sboxInv b kb).toNat : Int) = ((b.toNat : Int) - kb.toNat) % 256 := by
  have hkb : kb.toNat < 256 := kb.isLt
  rw [sboxInv_toNat]
  omega

@[simp] theorem sboxInv_sbox (b kb : Byte) : sboxInv (sbox b kb) kb = b := BitVec.add_sub_cancel b kb

@[simp] theorem sbox_sboxInv (b kb : Byte) : sbox (sboxInv b kb) kb = b := BitVec.sub_add_cancel b kb

theorem sbox_assoc (b k k' : Byte) : sbox (sbox b k) k' = sbox b (sbox k k') := BitVec.add_assoc b k k'

/-- Settles O29: the S-box and its inverse as numbers, and the two inverse laws. -/
theorem sboxPair : Obligations.SboxPair := fun b kb =>
  ⟨sbox_toNat b kb, sboxInv_toInt b kb, sboxInv_sbox b kb, sbox_sboxInv b kb⟩

@[simp] theorem lane_substitute (x sk : Word) {l : Nat} (hl : l < 4) :
    lane l (substitute x sk) = sbox (lane l x) (lane l sk) := lane_mapLanes sbox x sk l hl

@[simp] theorem lane_substituteInv (x sk : Word) {l : Nat} (hl : l < 4) :
    lane l (substituteInv x sk) = sboxInv (lane l x) (lane l sk) := lane_mapLanes sboxInv x sk l hl

theorem eq_iff_laneNat {x y : Word} : x = y ↔ ∀ l < 4, laneNat l x = laneNat l y := by
  refine ⟨fun h _ _ => h ▸ rfl, fun h => eq_of_lanes fun l hl => BitVec.eq_of_toNat_eq ?_⟩
  simpa only [toNat_lane_eq_laneNat] using h l hl

theorem laneNat_substitute (x sk : Word) {l : Nat} (hl : l < 4) :
    laneNat l (substitute x sk) = (laneNat l x + laneNat l sk) % 256 := by
  simp only [← toNat_lane_eq_laneNat, lane_substitute x sk hl, sbox_toNat]

theorem laneNat_substituteInv (x sk : Word) {l : Nat} (hl : l < 4) :
    laneNat l (substituteInv x sk) = (laneNat l x + (256 - laneNat l sk)) % 256 := by
  simp only [← toNat_lane_eq_laneNat, lane_substituteInv x sk hl, sboxInv_toNat]

/-- The relation of R122 is the graph of `substitute`. -/
theorem isSubstituted_iff {x sk y : Word} : IsSubstituted x sk y ↔ y = substitute x sk := by
  rw [eq_iff_laneNat]
  exact forall₂_congr fun l hl => by rw [laneNat_substitute x sk hl]

/-- The relation of R123 is the graph of `substituteInv`. -/
theorem isUnsubstituted_iff {x sk y : Word} : IsUnsubstituted x sk y ↔ y = substituteInv x sk := by
  rw [eq_iff_laneNat]
  exact forall₂_congr fun l hl => by rw [laneNat_substituteInv x sk hl]

theorem substituteInv_substitute (x sk : Word) : substituteInv (substitute x sk) sk = x :=
  eq_of_lanes fun l hl => by simp only [lane_substituteInv, lane_substitute, hl, sboxInv_sbox]

/-- Two substitutions in a row are one, under the first subkey substituted under the second (R124). -/
theorem substitute_substitute (x a b : Word) : substitute (substitute x a) b = substitute x (substitute a b) :=
  eq_of_lanes fun l hl => by simp only [lane_substitute, hl, sbox_assoc]

/-- Settles O32: each law lane by lane; the lane sums of two subkeys are `substitute` of the one under the other. -/
theorem substitutionLaws : Obligations.SubstitutionLaws := by
  refine ⟨substituteInv_substitute, substitute_zero, by decide, fun x a b c hc => ?_⟩
  rw [isSubstituted_iff.1 hc, substitute_substitute]

/-- A command with destination DOUT completes with its word there and changes nothing else (R25, R87). -/
theorem onlyDout_completeDout (v : Word) (s : State) : OnlyDout s (completeDout v s) := rfl

theorem subUnder_result (i : Fin 3) (s : State) :
    ∃ t, subUnder i s = .next t ∧ IsSubstituted s.din (readSk i s) t.dout ∧ OnlyDout s t :=
  ⟨_, rfl, isSubstituted_iff.2 rfl, onlyDout_completeDout _ s⟩

theorem subinvUnder_result (i : Fin 3) (s : State) :
    ∃ t, subinvUnder i s = .next t ∧ IsUnsubstituted s.din (readSk i s) t.dout ∧ OnlyDout s t :=
  ⟨_, rfl, isUnsubstituted_iff.2 rfl, onlyDout_completeDout _ s⟩

/-- Settles O30: `subUnder_result` at the three subkeys. -/
theorem subResult : Obligations.SubResult := fun s =>
  ⟨subUnder_result 0 s, subUnder_result 1 s, subUnder_result 2 s⟩

/-- Settles O31: `subinvUnder_result` at the three subkeys. -/
theorem subinvResult : Obligations.SubinvResult := fun s =>
  ⟨subinvUnder_result 0 s, subinvUnder_result 1 s, subinvUnder_result 2 s⟩

end Sys2Proof.Machine

/-! ## The bit permutation: positions, inverse multipliers and the relations of R141 and R143 -/

namespace Sys2Proof.Machine

theorem multiplier_eq_multOf (sk : Word) : multiplier sk = multOf sk := multiplier_eq sk

theorem addend_eq_addOf (sk : Word) : addend sk = addOf sk := addend_eq sk

theorem multOf_lt (sk : Word) : multOf sk < 32 := by
  unfold multOf
  omega

theorem multOf_odd (sk : Word) : multOf sk % 2 = 1 := Nat.mul_add_mod 2 _ 1

theorem invMultiplier_spec_of_odd {m : Nat} (hm : m < 32) (hodd : m % 2 = 1) :
    1 ≤ invMultiplier m ∧ invMultiplier m ≤ 31 ∧ m * invMultiplier m % 32 = 1 := by
  obtain ⟨k, rfl⟩ : ∃ k, m = 2 * k + 1 := Nat.odd_iff.2 hodd
  exact invMultiplier_spec k (by omega)

/-- An inverse mod 32 is unique: `v ≡ v * (m * w) = (m * v) * w ≡ w`. -/
theorem eq_of_mul_mod_eq_one {m v w : Nat} (hv : v < 32) (hw : w < 32) (hmv : m * v % 32 = 1)
    (hmw : m * w % 32 = 1) : v = w := by
  have hmv' : m * v ≡ 1 [MOD 32] := hmv
  have hmw' : m * w ≡ 1 [MOD 32] := hmw
  refine Nat.ModEq.eq_of_lt_of_lt (m := 32) ?_ hv hw
  calc v = v * 1 := (Nat.mul_one v).symm
    _ ≡ v * (m * w) [MOD 32] := (hmw'.mul_left v).symm
    _ = m * v * w := by ring
    _ ≡ 1 * w [MOD 32] := hmv'.mul_right w
    _ = w := Nat.one_mul w

theorem mul_mod_eq_one_iff {m v : Nat} (hm : m < 32) (hodd : m % 2 = 1) (hv : v < 32) :
    m * v % 32 = 1 ↔ v = invMultiplier m := by
  obtain ⟨-, hle, hinv⟩ := invMultiplier_spec_of_odd hm hodd
  exact ⟨fun h => eq_of_mul_mod_eq_one hv (by omega) h hinv, fun h => h ▸ hinv⟩

/-- Settles O33: the table's entries are inverses mod 32, which are unique. -/
theorem inverseMultiplierTable : Obligations.InverseMultiplierTable :=
  ⟨fun _ hm hodd _ hv => mul_mod_eq_one_iff hm hodd hv, rfl⟩

theorem permPos_eq (sk : Word) (i : Nat) :
    permPos (multiplier sk) (addend sk) i = (multOf sk * i + addOf sk) % 32 := by
  rw [multiplier_eq_multOf, addend_eq_addOf, permPos]

/-- Words are equal when they agree at the values of a position map that reaches every position. -/
theorem eq_iff_getLsbD_of_onto {pos : Nat → Nat} (honto : ∀ j < 32, ∃ i < 32, pos i = j) {y z : Word} :
    y = z ↔ ∀ i < 32, y.getLsbD (pos i) = z.getLsbD (pos i) := by
  refine ⟨fun h _ _ => h ▸ rfl, fun h => BitVec.eq_of_getLsbD_eq fun j hj => ?_⟩
  obtain ⟨i, hi, rfl⟩ := honto j hj
  exact h i hi

theorem permPos_onto (sk : Word) : ∀ j < 32, ∃ i < 32, permPos (multiplier sk) (addend sk) i = j :=
  fun j hj => ⟨_, perminvPos_lt sk j, permPos_perminvPos sk j hj⟩

theorem perminvPos_onto (sk : Word) : ∀ i < 32, ∃ j < 32, perminvPos (multiplier sk) (addend sk) j = i :=
  fun i hi => ⟨_, permPos_lt _ _ i, perminvPos_permPos sk i hi⟩

/-- The relation of R141 is the graph of `permute`. -/
theorem isPermuted_iff {x sk y : Word} : IsPermuted x sk y ↔ y = permute x sk := by
  rw [eq_iff_getLsbD_of_onto (permPos_onto sk)]
  exact forall₂_congr fun i hi => by rw [getLsbD_permute x sk i hi, permPos_eq]

/-- The relation of R143 is the graph of `permuteInv`: its `v` can only be the table's. -/
theorem isUnpermuted_iff {x sk y : Word} : IsUnpermuted x sk y ↔ y = permuteInv x sk := by
  have hpos (j : Nat) : perminvPos (multiplier sk) (addend sk) j
      = invMultiplier (multOf sk) * (j + 32 - addOf sk) % 32 := by
    rw [perminvPos_eq _ _ _ (addend_lt sk), multiplier_eq_multOf, addend_eq_addOf]
  have hbits : y = permuteInv x sk
      ↔ ∀ j < 32, y.getLsbD (invMultiplier (multOf sk) * (j + 32 - addOf sk) % 32) = x.getLsbD j := by
    rw [eq_iff_getLsbD_of_onto (perminvPos_onto sk)]
    exact forall₂_congr fun j hj => by rw [getLsbD_permuteInv x sk j hj, hpos]
  rw [hbits]
  constructor
  · rintro ⟨v, -, hle, hinv, h⟩
    obtain rfl := (mul_mod_eq_one_iff (multOf_lt sk) (multOf_odd sk) (by omega)).1 hinv
    exact h
  · intro h
    obtain ⟨hge, hle, hinv⟩ := invMultiplier_spec_of_odd (multOf_lt sk) (multOf_odd sk)
    exact ⟨_, hge, hle, hinv, h⟩

end Sys2Proof.Machine

/-! ## The bit permutation: PERM and PERMINV (R146, R147) and the laws of R144 -/

namespace Sys2Proof.Machine

theorem permUnder_result (i : Fin 3) (s : State) :
    ∃ t, permUnder i s = .next t ∧ IsPermuted s.din (readSk i s) t.dout ∧ OnlyDout s t :=
  ⟨_, rfl, isPermuted_iff.2 rfl, onlyDout_completeDout _ s⟩

theorem perminvUnder_result (i : Fin 3) (s : State) :
    ∃ t, perminvUnder i s = .next t ∧ IsUnpermuted s.din (readSk i s) t.dout ∧ OnlyDout s t :=
  ⟨_, rfl, isUnpermuted_iff.2 rfl, onlyDout_completeDout _ s⟩

/-- Settles O34: `permUnder_result` at the three subkeys. -/
theorem permResult : Obligations.PermResult := fun s =>
  ⟨permUnder_result 0 s, permUnder_result 1 s, permUnder_result 2 s⟩

/-- Settles O35: `perminvUnder_result` at the three subkeys. -/
theorem perminvResult : Obligations.PerminvResult := fun s =>
  ⟨perminvUnder_result 0 s, perminvUnder_result 1 s, perminvUnder_result 2 s⟩

/-- Bit i goes to its permuted position and from there back to i. -/
@[simp] theorem permuteInv_permute (x sk : Word) : permuteInv (permute x sk) sk = x := by
  apply BitVec.eq_of_getLsbD_eq
  intro i hi
  have hback := getLsbD_permuteInv (permute x sk) sk _ (permPos_lt (multiplier sk) (addend sk) i)
  rwa [perminvPos_permPos sk i hi, getLsbD_permute x sk i hi] at hback

/-- Bit j goes to its inversely permuted position and from there back to j. -/
@[simp] theorem permute_permuteInv (y sk : Word) : permute (permuteInv y sk) sk = y := by
  apply BitVec.eq_of_getLsbD_eq
  intro j hj
  have hback := getLsbD_permute (permuteInv y sk) sk _ (perminvPos_lt sk j)
  rwa [permPos_perminvPos sk j hj, getLsbD_permuteInv y sk j hj] at hback

/-- Settles O36: the two inverse laws, each bit by bit. -/
theorem permutationBijective : Obligations.PermutationBijective := fun x sk =>
  ⟨permuteInv_permute x sk, permute_permuteInv x sk⟩

/-- The permuted and the inversely permuted position match the set bits of the two words one to one. -/
theorem setBits_permute (x sk : Word) : setBits (permute x sk) = setBits x := by
  rw [setBits_eq_card, setBits_eq_card, eq_comm]
  refine Finset.card_nbij' (permPos (multiplier sk) (addend sk)) (perminvPos (multiplier sk) (addend sk))
    ?_ ?_ ?_ ?_ <;> simp only [Finset.coe_filter, Finset.mem_range]
  · rintro i ⟨hi, hx⟩
    exact ⟨permPos_lt _ _ i, (getLsbD_permute x sk i hi).trans hx⟩
  · rintro j ⟨hj, hy⟩
    have hback := getLsbD_permuteInv (permute x sk) sk j hj
    rw [permuteInv_permute] at hback
    exact ⟨perminvPos_lt sk j, hback.trans hy⟩
  · rintro i ⟨hi, -⟩
    exact perminvPos_permPos sk i hi
  · rintro j ⟨hj, -⟩
    exact permPos_perminvPos sk j hj

/-- With multiplier 1 bit i moves to `(i + a) mod 32`, as under a rotation by `a`, 0 included. -/
theorem permute_eq_rotateLeft32 {sk : Word} (hm : multOf sk = 1) (x : Word) :
    permute x sk = rotateLeft32 x (addOf sk) := by
  have ha : addOf sk < 32 := Nat.mod_lt _ (by decide)
  refine (isPermuted_iff.1 fun i hi => ?_).symm
  have hpos : ((multOf sk * i + addOf sk) % 32 + 32 - addOf sk) % 32 = i := by
    rw [hm]
    omega
  rw [getLsbD_rotateLeft32 x ha (Nat.mod_lt _ (by decide)), hpos]

@[simp] theorem rotateLeft32_zero (x : Word) : rotateLeft32 x 0 = x := by
  have hout : x >>> 32 = 0#32 := BitVec.ushiftRight_eq_zero (Nat.le_refl 32)
  simp [rotateLeft32, hout]

/-- Settles O37: the set bits correspond one to one, and multiplier 1 leaves the rotation by the addend. -/
theorem permutationCountAndRotation : Obligations.PermutationCountAndRotation := by
  refine ⟨setBits_permute, fun x sk hm _ => permute_eq_rotateLeft32 hm x, fun x sk hm ha => ?_⟩
  rw [permute_eq_rotateLeft32 hm, ha, rotateLeft32_zero]

end Sys2Proof.Machine

/-! ## The round: ROUND and ROUNDINV, and the laws of R171 -/

namespace Sys2Proof.Machine

theorem substitute_substituteInv (x sk : Word) : substitute (substituteInv x sk) sk = x :=
  eq_of_lanes fun l hl => by simp only [lane_substitute, lane_substituteInv, hl, sbox_sboxInv]

/-- The relation of R170 is the graph of `roundEnc`. -/
theorem isRound_iff {x sk y : Word} : IsRound x sk y ↔ y = roundEnc x sk := by
  simp only [IsRound, isSubstituted_iff, isPermuted_iff, exists_eq_left, roundEnc]

/-- The relation of R171 is the graph of `roundDec`. -/
theorem isUnround_iff {x sk y : Word} : IsUnround x sk y ↔ y = roundDec x sk := by
  simp only [IsUnround, isUnpermuted_iff, isUnsubstituted_iff, exists_eq_left, roundDec]

/-- The inner pair, the permutation and its inverse, cancels first; then the substitution's (R171). -/
@[simp] theorem roundDec_roundEnc (x sk : Word) : roundDec (roundEnc x sk) sk = x := by
  rw [roundDec, roundEnc, permuteInv_permute, substituteInv_substitute]

/-- The inner pair, the substitution's inverse and the substitution, cancels first; then the permutation's (R171). -/
@[simp] theorem roundEnc_roundDec (x sk : Word) : roundEnc (roundDec x sk) sk = x := by
  rw [roundEnc, roundDec, substitute_substituteInv, permute_permuteInv]

theorem roundUnder_result (i : Fin 3) (s : State) :
    ∃ t, roundUnder i s = .next t ∧ IsRound s.din (readSk i s) t.dout ∧ OnlyDout s t :=
  ⟨_, rfl, isRound_iff.2 rfl, onlyDout_completeDout _ s⟩

theorem roundinvUnder_result (i : Fin 3) (s : State) :
    ∃ t, roundinvUnder i s = .next t ∧ IsUnround s.din (readSk i s) t.dout ∧ OnlyDout s t :=
  ⟨_, rfl, isUnround_iff.2 rfl, onlyDout_completeDout _ s⟩

/-- Settles O38: `roundUnder_result` at the three subkeys. -/
theorem roundResult : Obligations.RoundResult := fun s =>
  ⟨roundUnder_result 0 s, roundUnder_result 1 s, roundUnder_result 2 s⟩

/-- Settles O39: `roundinvUnder_result` at the three subkeys, and the two inverse laws. -/
theorem roundinvResult : Obligations.RoundinvResult :=
  ⟨fun s => ⟨roundinvUnder_result 0 s, roundinvUnder_result 1 s, roundinvUnder_result 2 s⟩,
    fun x sk => ⟨roundDec_roundEnc x sk, roundEnc_roundDec x sk⟩⟩

end Sys2Proof.Machine

/-! ## The block cipher: ENCRYPT and DECRYPT (R190-R195) -/

namespace Sys2Proof.Machine

/-- The relation of R190 is the graph of `encryptBlock`. -/
theorem isEncrypted_iff {x k0 k1 k2 y : Word} : IsEncrypted x k0 k1 k2 y ↔ y = encryptBlock x ⟨k0, k1, k2⟩ := by
  simp only [IsEncrypted, isRound_iff, exists_and_left, exists_eq_left, encryptBlock]

/-- The relation of R191 is the graph of `decryptBlock`. -/
theorem isDecrypted_iff {x k0 k1 k2 y : Word} : IsDecrypted x k0 k1 k2 y ↔ y = decryptBlock x ⟨k0, k1, k2⟩ := by
  simp only [IsDecrypted, isUnround_iff, exists_and_left, exists_eq_left, decryptBlock]

theorem exec_encrypt (s : State) : exec .encrypt s = .next (completeDout (encryptBlock s.din (subkeys s)) s) := rfl

theorem exec_decrypt (s : State) : exec .decrypt s = .next (completeDout (decryptBlock s.din (subkeys s)) s) := rfl

/-- Settles O40: the block ENCRYPT leaves in DOUT meets R190's relation, in the frame of `completeDout`. -/
theorem encryptResult : Obligations.EncryptResult := fun s =>
  ⟨_, exec_encrypt s, isEncrypted_iff.2 rfl, onlyDout_completeDout _ s⟩

/-- Settles O41: the block DECRYPT leaves in DOUT meets R191's relation, in the frame of `completeDout`. -/
theorem decryptResult : Obligations.DecryptResult := fun s =>
  ⟨_, exec_decrypt s, isDecrypted_iff.2 rfl, onlyDout_completeDout _ s⟩

/-- The rounds cancel from the inside out: the pair under subkey 2 first, that under subkey 0 last (R195). -/
@[simp] theorem decryptBlock_encryptBlock (x : Word) (sk : SubkeySet) :
    decryptBlock (encryptBlock x sk) sk = x := by
  simp only [decryptBlock, encryptBlock, roundDec_roundEnc]

/-- The rounds cancel from the inside out: the pair under subkey 0 first, that under subkey 2 last (R195). -/
@[simp] theorem encryptBlock_decryptBlock (x : Word) (sk : SubkeySet) :
    encryptBlock (decryptBlock x sk) sk = x := by
  simp only [decryptBlock, encryptBlock, roundEnc_roundDec]

/-- The subkeys of R195's example key. -/
theorem deriveSubkeys_exampleKey : deriveSubkeys 0x1A2B3C4D = ⟨0xE50F9AF2, 0xE263E272, 0x8721785C⟩ := by decide

/-- R195's example block, round by round. -/
theorem encryptBlock_example : encryptBlock 0x12345678 ⟨0xE50F9AF2, 0xE263E272, 0x8721785C⟩ = 0x6D3F743F := by
  have round0 : roundEnc 0x12345678 0xE50F9AF2 = 0xCE574EB2 := by decide
  have round1 : roundEnc 0xCE574EB2 0xE263E272 = 0x16C48585 := by decide
  have round2 : roundEnc 0x16C48585 0x8721785C = 0x6D3F743F := by decide
  simp only [encryptBlock, round0, round1, round2]

/-- The example's ciphertext under the triple with SK0 and SK2 swapped: the plaintext does not come back. -/
theorem decryptBlock_example_swapped :
    decryptBlock 0x6D3F743F ⟨0x8721785C, 0xE263E272, 0xE50F9AF2⟩ = 0x57BE54C5 := by
  have round2 : roundDec 0x6D3F743F 0xE50F9AF2 = 0x098F5C2C := by decide
  have round1 : roundDec 0x098F5C2C 0xE263E272 = 0x21BED377 := by decide
  have round0 : roundDec 0x21BED377 0x8721785C = 0x57BE54C5 := by decide
  simp only [decryptBlock, round2, round1, round0]

/-- Settles O42: the two inverse laws, and the rule's example round by round. -/
theorem blockRoundTrip : Obligations.BlockRoundTrip := by
  refine ⟨fun x sk => ⟨decryptBlock_encryptBlock x sk, encryptBlock_decryptBlock x sk⟩,
    fun x k => decryptBlock_encryptBlock x (deriveSubkeys k), ?_, ?_⟩
  · rw [deriveSubkeys_exampleKey, encryptBlock_example]
  · rw [deriveSubkeys_exampleKey, decryptBlock_example_swapped]

theorem encryptBlock_inj {x y : Word} {sk : SubkeySet} : encryptBlock x sk = encryptBlock y sk ↔ x = y :=
  Function.Injective.eq_iff (Function.LeftInverse.injective (g := (decryptBlock · sk))
    fun x => decryptBlock_encryptBlock x sk)

theorem decryptBlock_inj {x y : Word} {sk : SubkeySet} : decryptBlock x sk = decryptBlock y sk ↔ x = y :=
  Function.Injective.eq_iff (Function.LeftInverse.injective (g := (encryptBlock · sk))
    fun x => encryptBlock_decryptBlock x sk)

/-- Settles O43: R190's relation has one result, and each map of DIN to DOUT has the other as its left inverse. -/
theorem encryptInjective : Obligations.EncryptInjective := by
  refine ⟨fun s => ⟨_, exec_encrypt s, fun y => isEncrypted_iff⟩, fun s s' h0 h1 h2 => ?_⟩
  have hsk : subkeys s = subkeys s' := by rw [subkeys, subkeys, h0, h1, h2]
  refine ⟨⟨_, _, exec_encrypt s, exec_encrypt s', ?_⟩, ⟨_, _, exec_decrypt s, exec_decrypt s', ?_⟩⟩
  · rw [completeDout_dout, completeDout_dout, hsk, encryptBlock_inj]
  · rw [completeDout_dout, completeDout_dout, hsk, decryptBlock_inj]

/-- DECRYPT of a word `c` completed into DOUT and copied to DIN: the subkeys are still those of `s` (R193, R304). -/
theorem exec_decrypt_completeDout (c : Word) (s : State) :
    exec .decrypt { completeDout c s with din := c }
      = .next { s with din := c, dout := decryptBlock c (subkeys s), pending := none, done := true } := rfl

/-- Settles O44: the DECRYPT is under the subkeys of the ENCRYPT, so its word is the first DIN. -/
theorem encryptThenDecryptRestores : Obligations.EncryptThenDecryptRestores := by
  intro s
  refine ⟨_, _, exec_encrypt s, exec_decrypt_completeDout (encryptBlock s.din (subkeys s)) s, ?_⟩
  rw [decryptBlock_encryptBlock, completeDout_dout]

theorem exec_derive_subkeys (s : State) :
    ∃ t, exec .derive s = .next t ∧ subkeys t = deriveSubkeys s.key := ⟨_, rfl, rfl⟩

/-- Settles O45: the zero subkey's identities, and the four keys of R103 whose subkeys are zero. -/
theorem zeroSubkeysIdentity : Obligations.ZeroSubkeysIdentity := by
  refine ⟨fun x => ⟨encryptBlock_zero x, decryptBlock_zero x⟩, rfl, fun s hkey => ?_⟩
  obtain ⟨t, ht, hsk⟩ := exec_derive_subkeys s
  exact ⟨t, ht, hsk.trans ((deriveSubkeys_eq_zero_iff s.key).2 hkey)⟩

end Sys2Proof.Machine

/-! ## The control commands: NOP and ZEROIZE (R87, R210, R211) -/

namespace Sys2Proof.Machine

/-- NOP is the completion of R87 and nothing else (R210). -/
theorem exec_nop (s : State) : exec .nop s = .next (finish s) := rfl

/-- ZEROIZE clears the key and data registers and SKV, then completes as R87 says (R211). -/
theorem exec_zeroize (s : State) :
    exec .zeroize s
      = .next (finish { s with key := 0, sk0 := 0, sk1 := 0, sk2 := 0, din := 0, dout := 0, skv := false }) := rfl

/-- Settles O46: the completion alone, with its two fields written out. -/
theorem nopResult : Obligations.NopResult := fun s => by
  rw [exec_nop, finish]

/-- Settles O47: the completion of the cleared state, with its two fields written out. -/
theorem zeroizeResult : Obligations.ZeroizeResult := fun s => by
  rw [exec_zeroize, finish]

end Sys2Proof.Machine

/-! ## The host's codec in binary mode (R230-R232, R237) -/

namespace Sys2Proof.Machine

theorem length_readBlocks (p : List Byte) : (readBlocks p).length = (p.length + 3) / 4 := by
  induction p using readBlocks.induct with
  | case1 => rfl
  | case2 | case3 | case4 => simp [readBlocks]
  | case5 a b c d rest ih =>
    simp only [readBlocks, List.length_cons, ih]
    omega

theorem length_flatMap_bytesBe (ws : List Word) : (ws.flatMap bytesBe).length = 4 * ws.length := by
  simp [List.length_flatMap, bytesBe, mul_comm]

/-- `read_blocks` undoes the concatenation of words as bytes (R230). -/
@[simp] theorem readBlocks_flatMap_bytesBe (ws : List Word) : readBlocks (ws.flatMap bytesBe) = ws := by
  induction ws with
  | nil => rfl
  | cons w ws ih =>
    calc readBlocks (bytesBe w ++ ws.flatMap bytesBe)
      _ = be32 (lane 3 w) (lane 2 w) (lane 1 w) (lane 0 w) :: readBlocks (ws.flatMap bytesBe) := rfl
      _ = w :: ws := by rw [be32_lanes, ih]

/-- A whole group ahead of a payload does not change the padding behind it. -/
theorem padded_group (a b c d : Byte) (p : List Byte) :
    padded (a :: b :: c :: d :: p) = a :: b :: c :: d :: padded p := by
  have hlen : (a :: b :: c :: d :: p).length % 4 = p.length % 4 := by
    simp only [List.length_cons]
    omega
  simp only [padded, hlen, List.cons_append]

/-- The blocks written out as bytes are the payload with R230's padding: a short last group by evaluation. -/
theorem flatMap_bytesBe_readBlocks (p : List Byte) : (readBlocks p).flatMap bytesBe = padded p := by
  induction p using readBlocks.induct with
  | case1 => rfl
  | case2 a => simp [readBlocks, padded]
  | case3 a b => simp [readBlocks, padded]
  | case4 a b c => simp [readBlocks, padded]
  | case5 a b c d rest ih =>
    simp only [readBlocks, List.flatMap_cons, bytesBe_be32, ih, padded_group, List.cons_append, List.nil_append]

/-- R231: the encryptions of the payload's blocks, written out as bytes. -/
theorem encryptBytes_eq (p : List Byte) (k : Word) :
    encryptBytes p k = ((readBlocks p).map fun x => encryptBlock x (deriveSubkeys k)).flatMap bytesBe := by
  rw [encryptBytes, List.flatMap_map]

theorem length_encryptBytes (p : List Byte) (k : Word) :
    (encryptBytes p k).length = 4 * ((p.length + 3) / 4) := by
  rw [encryptBytes_eq, length_flatMap_bytesBe, List.length_map, length_readBlocks]

theorem readBlocks_encryptBytes (p : List Byte) (k : Word) :
    readBlocks (encryptBytes p k) = (readBlocks p).map fun x => encryptBlock x (deriveSubkeys k) := by
  rw [encryptBytes_eq, readBlocks_flatMap_bytesBe]

/-- Settles O54: the length counts the payload's blocks, and reading the output back gives the encrypted blocks. -/
theorem encryptBytesLength : Obligations.EncryptBytesLength := fun p k =>
  ⟨length_encryptBytes p k, readBlocks_encryptBytes p k⟩

theorem decryptBytes_of_length_mod_ne_zero {ct : List Byte} (h : ct.length % 4 ≠ 0) (k : Word) :
    decryptBytes ct k = .error .invalidCiphertextLength := if_pos h

/-- R232: past the length check, the decryptions of the ciphertext's blocks, written out as bytes. -/
theorem decryptBytes_of_length_mod_eq_zero {ct : List Byte} (h : ct.length % 4 = 0) (k : Word) :
    decryptBytes ct k
      = .ok (((readBlocks ct).map fun x => decryptBlock x (deriveSubkeys k)).flatMap bytesBe) := by
  rw [decryptBytes, if_neg (not_not_intro h), List.flatMap_map]

theorem decryptBytes_encryptBytes (p : List Byte) (k : Word) :
    decryptBytes (encryptBytes p k) k = .ok (padded p) := by
  have hlen : (encryptBytes p k).length % 4 = 0 := by
    rw [length_encryptBytes, Nat.mul_mod_right]
  have hblocks : (readBlocks (encryptBytes p k)).map (fun x => decryptBlock x (deriveSubkeys k)) = readBlocks p := by
    simp [readBlocks_encryptBytes, Function.comp_def]
  rw [decryptBytes_of_length_mod_eq_zero hlen, hblocks, flatMap_bytesBe_readBlocks]

/-- Settles O55: the two branches of the length check, and the round trip block by block. -/
theorem binaryRoundTrip : Obligations.BinaryRoundTrip := by
  refine ⟨fun ct k h => decryptBytes_of_length_mod_ne_zero h k, fun ct k h => ?_, decryptBytes_encryptBytes⟩
  refine ⟨_, decryptBytes_of_length_mod_eq_zero h k, ?_⟩
  rw [length_flatMap_bytesBe, List.length_map, length_readBlocks]
  omega

end Sys2Proof.Machine

/-! ## Reset (R290, R306) -/

namespace Sys2Proof.Machine

theorem step_of_mover_reset {s : State} (h : mover s = .reset) : step s = .next (resetCore (takeTurn s)) := by
  simp only [step, h]

/-- Settles O48: `resetCore` keeps only the environment's lists, of which `takeTurn` has used up one turn. -/
theorem resetTurn : Obligations.ResetTurn := fun _ hm => step_of_mover_reset hm

end Sys2Proof.Machine

/-! ## The error record: what sets and clears ERR (R260-R262, R265) -/

namespace Sys2Proof.Machine

/-- What can become of the error record from `s` to `t`, where `Clears` is what clears it: it is cleared whole, a
cause is raised over it, of which only the first is recorded, or it stands (R262, R265). -/
inductive ErrorEffect (Clears : Prop) (s t : State) : Prop
  | cleared (hclears : Clears) (herr : t.err = false) (hcode : t.errcode = 0)
  | raised (c : ErrCause) (herr : t.err = true) (hcode : t.errcode = if s.err then s.errcode else causeCode c)
  | stands (herr : t.err = s.err) (hcode : t.errcode = s.errcode)

/-- Only a write of STATUS with bit 2 set clears the error record (R61, R265). -/
theorem WriteEffect.errorEffect {idx : BitVec 4} {v : Word} {s t : State} (h : WriteEffect idx v s t) :
    ErrorEffect (idx = 6 ∧ v.getLsbD 2 = true) s t := by
  cases h with
  | errorCleared hidx hbit => exact .cleared ⟨hidx, hbit⟩ rfl rfl
  | dropped c => exact .raised c (raiseError_err c s) (raiseError_errcode c s)
  | refused c => exact .raised c (raiseError_err c s) (raiseError_errcode c s)
  | key | sk | din | accepted | ignored => exact .stands rfl rfl

/-- At a step, the error record is cleared by a reset or by the host's write of STATUS with bit 2 set; a completing
command leaves it (`exec_frame`). -/
theorem step_errorEffect {s t : State} (h : step s = .next t) :
    ErrorEffect (mover s = .reset ∨ ∃ v : Word, HostAccesses s (.write 6 v) ∧ v.getLsbD 2 = true) s t := by
  rcases step_core_cases h with ⟨hm, rfl⟩ | ⟨i, -, hx⟩ | ⟨idx, v, u, hw, ⟨_, _, _, rfl⟩, he⟩ | ⟨-, ⟨_, _, _, rfl⟩⟩
  · exact .cleared (.inl hm) rfl rfl
  · obtain ⟨t', hx', -, -, herr, hcode, -⟩ := exec_frame i (takeTurn s)
    obtain rfl : t' = t := Host.Outcome.next.inj (hx'.symm.trans hx)
    exact .stands herr hcode
  · cases he.errorEffect with
    | cleared hstatus herr hcode =>
      obtain ⟨rfl, hbit⟩ := hstatus
      exact .cleared (.inr ⟨v, hw, hbit⟩) herr hcode
    | raised c herr hcode => exact .raised c herr hcode
    | stands herr hcode => exact .stands herr hcode
  · exact .stands rfl rfl

/-- Settles O49: a cause raised over a set ERR leaves ERRCODE, and over a clear one records its code of 1 to 4. -/
theorem firstErrorKept : Obligations.FirstErrorKept := by
  intro s t h _
  cases step_errorEffect h with
  | cleared _ herr => simp [herr]
  | raised c _ hcode =>
    exact ⟨fun hs _ => by simp [hcode, hs], fun hs _ => by simpa [hcode, hs] using causeCode_range c⟩
  | stands herr hcode => simp +contextual [herr, hcode]

/-- Settles O50: of the things that can become of the error record, only clearing it takes ERR from 1 to 0. -/
theorem errClearedOnlyBy : Obligations.ErrClearedOnlyBy := by
  intro s t h hs ht
  cases step_errorEffect h with
  | cleared hclears _ hcode => exact ⟨hcode, hclears⟩
  | raised _ herr => simp [ht] at herr
  | stands herr => simp [ht, hs] at herr

end Sys2Proof.Machine

/-! ## The named stops (R88, R267) -/

namespace Sys2Proof.Machine

/-- The engine with nothing pending is not enabled (log entry 3). -/
theorem engineStep_of_idle {s : State} (h : s.pending = none) : engineStep s = .next s := by
  simp only [engineStep, h]

/-- A step of the engine answers when PENDING is none or legal: each of the 23 commands completes (R87). -/
theorem PendingLegal.step_engine {s : State} (h : PendingLegal s) (hm : mover s = .engine) :
    ∃ t, step s = .next t := by
  by_cases hp : s.pending = none
  · exact ⟨_, (step_of_mover_engine hm).trans (engineStep_of_idle hp)⟩
  · obtain ⟨i, hi⟩ := h.exists_instr hp
    obtain ⟨t, hx, -⟩ := exec_frame i (takeTurn s)
    exact ⟨t, (Completes.step_eq ⟨hm, hi⟩).trans hx⟩

/-- A step of the host answers, except at a byte request the bridge cannot carry, which is refused by its name (R65). -/
theorem step_host_next_or_refused {s : State} (hm : mover s = .host) :
    (∃ t, step s = .next t)
    ∨ ∃ r e, HostMoves s (.request r) ∧ bridge Config.baseAddr r = .error e ∧ step s = .refused e := by
  rcases hp : s.program with _ | ⟨op, rest⟩
  · exact .inl ⟨_, (step_of_mover_host hm).trans (hostStep_of_program_nil hp)⟩
  have hmoves : HostMoves s op := ⟨hm, by rw [hp, List.head?_cons]⟩
  cases op with
  | bus a => exact .inl ⟨_, hmoves.step_bus⟩
  | wait => exact .inl ⟨_, hmoves.step_wait⟩
  | request r =>
    cases hb : bridge Config.baseAddr r with
    | ok a => exact .inl ⟨_, hmoves.step_request_ok hb⟩
    | error e => exact .inr ⟨r, e, hmoves, hb, hmoves.step_request_error hb⟩

/-- A pending pair that is no command has no arm in the dispatch (R88, R267). -/
theorem engineStep_of_not_wellFormed {s : State} {op : BitVec 4} {sel : BitVec 2} (hp : s.pending = some (op, sel))
    (h : ¬ CmdFields.WellFormed ⟨op, sel, 0⟩) : engineStep s = .fault .illegalPending := by
  have hnone : pairInstr op sel = none := by
    rwa [← pairInstr_isSome, Option.not_isSome_iff_eq_none] at h
  simp only [engineStep, hp, hnone]

/-- Settles O23: each mover's step in turn, and the engine's with an illegal pair pending. -/
theorem onlyNamedStops : Obligations.OnlyNamedStops := by
  refine ⟨fun s hlegal => ?_, fun s op sel hp hwf hm => ?_⟩
  · cases hm : mover s with
    | host => exact step_host_next_or_refused hm
    | engine => exact .inl (hlegal.step_engine hm)
    | reset => exact .inl ⟨_, step_of_mover_reset hm⟩
  · exact (step_of_mover_engine hm).trans (engineStep_of_not_wellFormed hp hwf)

end Sys2Proof.Machine
